-- ==== Sys2Proof/Config.lean ====
section
/-! DEFINITION. The named parameters of `00_scope.md` R9 at the document's values (unaudited literals, R5 (b), U10;
log 5). PAYLOAD_MAX has no default: it is the field `payloadMax` of State (log 4). The widths are the indices of the
types of Word.lean. DESIGN CHOICE, for every constant here: fixed at the default, as R9 allows (log 5). -/

namespace Sys2Proof.Config

/-- `SEQ_BITS`, the width of a sequence number (R9). -/
@[simp] abbrev seqBits : Nat := 6

/-- `SEQ_MOD` = 2 ^ SEQ_BITS, the modulus of sequence arithmetic (R9). -/
@[simp] abbrev seqMod : Nat := 2 ^ seqBits

/-- `SEQUENCE_NUMBER_MAX` = SEQ_MOD - 1, the largest sequence number (R9). -/
@[simp] abbrev sequenceNumberMax : Nat := seqMod - 1

/-- `CODE_BITS`, the width of an operation code (R9). -/
@[simp] abbrev codeBits : Nat := 2

/-- `WINDOW_MAX`, the largest window (R9). -/
@[simp] abbrev windowMax : Nat := 32

/-- `WINDOW_MIN`, the smallest window: 1, not 0 (R9, `90_conflicts.md` C1). -/
@[simp] abbrev windowMin : Nat := 1

/-- `WINDOW_DEFAULT`, the window after reset (R9). -/
@[simp] abbrev windowDefault : Nat := 15

/-- `HEADER_BYTES`, the bytes of header in a frame (R9). -/
@[simp] abbrev headerBytes : Nat := 1

/-- `CMD_BITS`, the width of a command word (R9). -/
@[simp] abbrev cmdBits : Nat := 32

/-- `RSP_BITS`, the width of a response word (R9). -/
@[simp] abbrev rspBits : Nat := 32

/-- `REG_BITS`, the width of WINDOW, CREDITS and STREAK (R9). -/
@[simp] abbrev regBits : Nat := 6

/-! ## Free values: what a codec operation reads when the host gives no IBUF (log 3) -/

/-- The payload SEG.ENC reads when the host presents it without IBUF, which R8 and R40 do not describe: a free value,
one for each command (R98, R218). DESIGN CHOICE (log 3). -/
opaque absentPayload : BitVec codeBits → BitVec seqBits → List (BitVec 8)

/-- The frame SEG.DEC reads when the host presents it without IBUF: a free value. DESIGN CHOICE (log 3). -/
opaque absentFrame : List (BitVec 8)

end Sys2Proof.Config
end

