-- ==== Sys2Proof/Word.lean ====
section
/-! DEFINITION. The widths of the block's values: command and response words, bytes and buffers, sequence numbers,
operation codes and registers (`00_scope.md` R9, R12, R13). -/

namespace Sys2Proof

/-- A command word, `CMD_BITS` wide (R9, R66). -/
abbrev Word := BitVec Config.cmdBits

/-- A response word, `RSP_BITS` wide (R9, R70). -/
abbrev RspWord := BitVec Config.rspBits

/-- A byte is 8 bits (R13). -/
abbrev Byte := BitVec 8

/-- A buffer is a finite sequence of bytes with a length, byte 0 first in wire order (R13, R43). -/
abbrev Buffer := List Byte

/-- A sequence number, or a count of the same width: the fields `a`, `b`, `c` of the command word (R66), `SEQ_BITS` wide (R9). -/
abbrev SeqNum := BitVec Config.seqBits

/-- The operation code of a segment, `CODE_BITS` wide (R9, R60). -/
abbrev Code := BitVec Config.codeBits

/-- The value of WINDOW, CREDITS or STREAK: `REG_BITS` wide (R9, R20 to R22). -/
abbrev Reg := BitVec Config.regBits

/-- The operation select `op` of a command word, bits 31:28 (R66). -/
abbrev OpSelect := BitVec 4

end Sys2Proof
end

