-- ==== Sys2Proof/Syntax.lean ====
section
/-! DEFINITION. The eleven operations as syntax (`30_encoding.md` R67), their pseudo-operations (R74), and the
segment with the names of its operation codes in each direction (R60 to R65). -/

namespace Sys2Proof

/-- One operation with the command fields it uses (R67). The payload of SEG.ENC and the frame of SEG.DEC arrive in
IBUF, not in the command word (R66, R73), so they are no operand here. -/
inductive Instr where
  /-- SEG.ENC: `code` = `CMD.code`, `seq` = `CMD.a` (R90). -/
  | segEnc (code : Code) (seq : SeqNum)
  /-- SEG.DEC: no command field (R93). -/
  | segDec
  /-- SEQ.INC: `seq` = `CMD.a` (R110). -/
  | seqInc (seq : SeqNum)
  /-- SEQ.DEC: `seq` = `CMD.a`, `n` = `CMD.b` (R111). -/
  | seqDec (seq n : SeqNum)
  /-- SEQ.IN: `noLo` = `CMD.none`, `lo` = `CMD.a` (kept, though ignored, when `noLo` holds: R68, R115; log 11),
  `hi` = `CMD.b`, `x` = `CMD.c` (R114). -/
  | seqIn (noLo : Bool) (lo hi x : SeqNum)
  /-- WIN.RESET (R131). -/
  | winReset
  /-- WIN.TAKE (R132). -/
  | winTake
  /-- WIN.GIVE: `n` = `CMD.a` (R133). -/
  | winGive (n : SeqNum)
  /-- WIN.ACK (R134). -/
  | winAck
  /-- WIN.GAP (R135). -/
  | winGap
  /-- WIN.READ (R136). -/
  | winRead
  deriving DecidableEq, Repr

/-- The names of the eleven rows of R67, without operands. -/
inductive Opcode where
  | segEnc | segDec | seqInc | seqDec | seqIn | winReset | winTake | winGive | winAck | winGap | winRead
  deriving DecidableEq, Repr

/-- The pseudo-operation SEQ.PREV: it expands to SEQ.DEC with n = 1 (R74). -/
def seqPrev (seq : SeqNum) : Instr := .seqDec seq 1

/-- The pseudo-operation WIN.GIVE1: it expands to WIN.GIVE 1 (R74). -/
def winGive1 : Instr := .winGive 1

/-- A segment: operation code, sequence number, payload (R16, R61). -/
structure Segment where
  code : Code
  seq : SeqNum
  payload : Buffer
  deriving DecidableEq, Repr

/-- The names of the operation codes a client sends (R62). -/
inductive ClientName where
  | data | syn | rst
  deriving DecidableEq, Repr

/-- The names of the operation codes a server sends (R63). One wire value stands for RST and for RST_ACK, told apart
only by the host's session state, which the block does not have (R64). -/
inductive ServerName where
  | dataAck | synAck | rstOrRstAck | gap
  deriving DecidableEq, Repr

end Sys2Proof
end

