-- ==== Sys2Proof/WellFormed.lean ====
section
/-! DEFINITION. Well-formedness: of instructions (the field widths already give it), of the assembler's spelling, of frames, and of the segments a client may send. The block itself checks none of the last
three (`40_segment_codec.md` R91, R95). -/

namespace Sys2Proof

/-- The source's test of a sequence number, inside [0, SEQUENCE_NUMBER_MAX] (R9, R117). -/
def inSequenceRange (n : Nat) : Bool := n ≤ Config.sequenceNumberMax

/-- Every sequence number or count of an instruction is in range. The check holds of every term, since each operand is
a contiguous field used at its own width (R76), so an out-of-range value is no term (R92, R112, R117). -/
def Instr.wellFormed : Instr → Bool
  | .segEnc _ seq => inSequenceRange seq.toNat
  | .segDec => true
  | .seqInc seq => inSequenceRange seq.toNat
  | .seqDec seq n => inSequenceRange seq.toNat && inSequenceRange n.toNat
  | .seqIn _ lo hi x => inSequenceRange lo.toNat && inSequenceRange hi.toNat && inSequenceRange x.toNat
  | .winReset => true
  | .winTake => true
  | .winGive n => inSequenceRange n.toNat
  | .winAck => true
  | .winGap => true
  | .winRead => true

/-- The terms the assembler syntax of R73 can write: `SEQ.IN none, hi, x` has no place for `lo`, so its field `a`
is 0. The command word is legal with any `a` there (R68, R115). -/
def Instr.assemblerForm : Instr → Bool
  | .seqIn true lo _ _ => lo == 0
  | .seqIn false _ _ _ => true
  | .segEnc _ _ => true
  | .segDec => true
  | .seqInc _ => true
  | .seqDec _ _ => true
  | .winReset => true
  | .winTake => true
  | .winGive _ => true
  | .winAck => true
  | .winGap => true
  | .winRead => true

/-- A buffer of length 0 is not a frame; every other buffer is one (R61, R65). -/
def isFrame (b : Buffer) : Bool := !b.isEmpty

/-- The client-sent name of an operation code; code 3 has none (R62, R65). -/
def clientName : Code → Option ClientName
  | 0#2 => some .data
  | 1#2 => some .syn
  | 2#2 => some .rst
  | _ => none

/-- The server-sent name of an operation code; all four have one (R63). -/
def serverName : Code → ServerName
  | 0#2 => .dataAck
  | 1#2 => .synAck
  | 2#2 => .rstOrRstAck
  | _ => .gap

/-- What the host may send: a named code, a non-empty payload for DATA, an empty one for SYN and RST (R62; the
host's duty of R214 (c), which SEG.ENC does not check, R91). -/
def Segment.clientForm (g : Segment) : Bool :=
  match clientName g.code with
  | some .data => !g.payload.isEmpty
  | some .syn => g.payload.isEmpty
  | some .rst => g.payload.isEmpty
  | none => false

end Sys2Proof
end

