-- ==== Sys2Proof/Decode.lean ====
section
/-! DEFINITION. The command word: its fields (`30_encoding.md` R66), the operation select map (R67), decoding with
rejection by name (R68, R69, R77), and the encoder written from the same table (R66, R73). -/

namespace Sys2Proof

/-! ## Fields of the command word (R66) -/

/-- `CMD.op`, bits 31:28. -/
def cmdOp (w : Word) : OpSelect := w.extractLsb' 28 4
/-- Bits 27:21, reserved, zero in every legal command (R68). -/
def cmdReserved (w : Word) : BitVec 7 := w.extractLsb' 21 7
/-- `CMD.none`, bit 20. -/
def cmdNone (w : Word) : Bool := w.getLsbD 20
/-- `CMD.code`, bits 19:18. -/
def cmdCode (w : Word) : Code := w.extractLsb' 18 2
/-- `CMD.c`, bits 17:12. -/
def cmdC (w : Word) : SeqNum := w.extractLsb' 12 6
/-- `CMD.b`, bits 11:6. -/
def cmdB (w : Word) : SeqNum := w.extractLsb' 6 6
/-- `CMD.a`, bits 5:0. -/
def cmdA (w : Word) : SeqNum := w.extractLsb' 0 6

/-- Whether a command word names a codec operation, the only ones that come with an input buffer (R8, R40). -/
def takesBuffer (w : Word) : Bool := cmdOp w == 0x1 || cmdOp w == 0x2

/-! ## The operation select map (R67) -/

/-- The `op` value of an operation (R67). -/
def Opcode.select : Opcode → OpSelect
  | .segEnc => 0x1
  | .segDec => 0x2
  | .seqInc => 0x3
  | .seqDec => 0x4
  | .seqIn => 0x5
  | .winReset => 0x6
  | .winTake => 0x7
  | .winGive => 0x8
  | .winAck => 0x9
  | .winGap => 0xA
  | .winRead => 0xB

/-- One row of R67: a command word `w` selects it when `w & mask == pattern`. -/
structure Row where
  opcode : Opcode
  pattern : Word
  mask : Word
  deriving DecidableEq, Repr

/-- The eleven rows of R67, in its order. -/
def opcodeTable : List Row :=
  [⟨.segEnc, 0x10000000, 0xFFF3FFC0⟩,
   ⟨.segDec, 0x20000000, 0xFFFFFFFF⟩,
   ⟨.seqInc, 0x30000000, 0xFFFFFFC0⟩,
   ⟨.seqDec, 0x40000000, 0xFFFFF000⟩,
   ⟨.seqIn, 0x50000000, 0xFFEC0000⟩,
   ⟨.winReset, 0x60000000, 0xFFFFFFFF⟩,
   ⟨.winTake, 0x70000000, 0xFFFFFFFF⟩,
   ⟨.winGive, 0x80000000, 0xFFFFFFC0⟩,
   ⟨.winAck, 0x90000000, 0xFFFFFFFF⟩,
   ⟨.winGap, 0xA0000000, 0xFFFFFFFF⟩,
   ⟨.winRead, 0xB0000000, 0xFFFFFFFF⟩]

/-- `CMD & mask == match` (R67). -/
def Row.selects (r : Row) (w : Word) : Bool := w &&& r.mask == r.pattern

/-- The row a command word selects; the rows are disjoint, so their order does not matter (R67). -/
def selectRow (w : Word) : Option Row := opcodeTable.find? fun r => r.selects w

/-! ## Decoding (R77 step 1) -/

/-- Why a command word matches no row (R69). The block reports ILLEGAL_CMD for each (R191); the names are the
model's (log 10). -/
inductive Illegal where
  /-- `op` is 0x0 or 0xC to 0xF. -/
  | reservedOp
  /-- A reserved bit of 27:21 is set. -/
  | reservedBit
  /-- A field the operation does not use is non-zero. -/
  | unusedField
  deriving DecidableEq, Repr

/-- The name of the rejection of a word that matches no row (R69). -/
def whyIllegal (w : Word) : Illegal :=
  if cmdOp w = 0x0 ∨ 0xC ≤ cmdOp w then .reservedOp
  else if cmdReserved w ≠ 0 then .reservedBit
  else .unusedField

/-- An operation with its operands taken from the fields of the command word (R67 "fields used", R76). -/
def Opcode.withFields (o : Opcode) (w : Word) : Instr :=
  match o with
  | .segEnc => .segEnc (cmdCode w) (cmdA w)
  | .segDec => .segDec
  | .seqInc => .seqInc (cmdA w)
  | .seqDec => .seqDec (cmdA w) (cmdB w)
  | .seqIn => .seqIn (cmdNone w) (cmdA w) (cmdB w) (cmdC w)
  | .winReset => .winReset
  | .winTake => .winTake
  | .winGive => .winGive (cmdA w)
  | .winAck => .winAck
  | .winGap => .winGap
  | .winRead => .winRead

/-- Decode a command word: the row it selects, or the name of the rejection (R69, R77). Total. -/
def decode (w : Word) : Except Illegal Instr :=
  match selectRow w with
  | some r => .ok (r.opcode.withFields w)
  | none => .error (whyIllegal w)

/-- The command word read from the low `nbits` bits of a number. R75 knows words of 32 bits only; how a number given
with another length is read is the model's. DESIGN CHOICE (log 17): a shorter one is extended with zeros above, of a
longer one bits 31:0 are taken. -/
def tableWord (nbits w : Nat) : Word := BitVec.ofNat Config.cmdBits (w % 2 ^ nbits)

/-- What the decoder reads from an instruction given as a number in the opcode table's bit order. A command is one
32-bit word and there is no second length (R75). DESIGN CHOICE for a number given with another length (log 17): a
shorter one is extended with zeros, so it can decode to an operation; a longer one is no command. -/
def decodeTableWord (nbits w : Nat) : Option Instr :=
  if nbits ≤ Config.cmdBits then (decode (tableWord nbits w)).toOption else none

/-! ## Encoding (R66) -/

/-- `CMD = (op << 28) | (none << 20) | (code << 18) | (c << 12) | (b << 6) | a` (R66). -/
def commandWord (op : OpSelect) (none : Bool) (code : Code) (c b a : SeqNum) : Word :=
  (op.setWidth Config.cmdBits <<< 28) ||| ((BitVec.ofBool none).setWidth Config.cmdBits <<< 20) |||
    (code.setWidth Config.cmdBits <<< 18) ||| (c.setWidth Config.cmdBits <<< 12) |||
    (b.setWidth Config.cmdBits <<< 6) ||| a.setWidth Config.cmdBits

/-- The operation an instruction is. -/
def Instr.opcode : Instr → Opcode
  | .segEnc _ _ => .segEnc
  | .segDec => .segDec
  | .seqInc _ => .seqInc
  | .seqDec _ _ => .seqDec
  | .seqIn _ _ _ _ => .seqIn
  | .winReset => .winReset
  | .winTake => .winTake
  | .winGive _ => .winGive
  | .winAck => .winAck
  | .winGap => .winGap
  | .winRead => .winRead

/-- The command word of an instruction; fields it does not use are zero (R67, R68). -/
def encode (i : Instr) : Word :=
  let op := i.opcode.select
  match i with
  | .segEnc code seq => commandWord op false code 0 0 seq
  | .segDec => commandWord op false 0 0 0 0
  | .seqInc seq => commandWord op false 0 0 0 seq
  | .seqDec seq n => commandWord op false 0 0 n seq
  | .seqIn noLo lo hi x => commandWord op noLo 0 x hi lo
  | .winReset => commandWord op false 0 0 0 0
  | .winTake => commandWord op false 0 0 0 0
  | .winGive n => commandWord op false 0 0 0 n
  | .winAck => commandWord op false 0 0 0 0
  | .winGap => commandWord op false 0 0 0 0
  | .winRead => commandWord op false 0 0 0 0

end Sys2Proof
end

