-- ==== Sys2Proof/Machine/State.lean ====
section
/-! DEFINITION. The state of the block (`10_state.md`), the host's side of the command port as plain data, the
reasons a step can stop (none, `60_exceptions.md` R193), and the state after reset (`70_reset_and_hazards.md` R211). -/

namespace Sys2Proof.Machine

/-- The reasons the machine can stop with a fault: there are none. The block raises no exception, no status is
fatal, and it cannot hang (R190, R193), so the type has no constructor. -/
inductive Fault where
  deriving DecidableEq, Repr

/-- The reasons the model can refuse a step. -/
inductive Refusal where
  /-- Raised by an arm of `exec` whose instruction has no meaning yet; no arm does, every row of the opcode table
  has its meaning. Safe: the model would stop where the hardware goes on. -/
  | notModelled (mnemonic : String)
  deriving DecidableEq, Repr

/-- The status codes the block produces (R191); codes 5 to 15 are reserved and never produced. -/
inductive Status where
  /-- The operation was performed. -/
  | ok
  /-- The command word matches no row of R67. -/
  | illegalCmd
  /-- SEG.DEC of an empty buffer: the sentinel NONE (R94). -/
  | noSegment
  /-- WIN.TAKE with no credit left (R132). -/
  | noCredit
  /-- A buffer longer than a finite PAYLOAD_MAX allows (R53). -/
  | length
  deriving DecidableEq, Repr

/-- What one operation returns to the host: the response word and the output buffer (R8, R40, R70). -/
structure Response where
  rsp : RspWord
  obuf : Buffer
  deriving DecidableEq, Repr

/-- What the host does to the block, one at a time (R8, R48). -/
inductive Request where
  /-- Present the command word `cmd` with the input buffer `ibuf`: `some` buffer, of length 0 or more, for SEG.ENC and
  SEG.DEC; `none`, no buffer, for the nine operations that take none (R8, R40; log 3). -/
  | command (cmd : Word) (ibuf : Option Buffer)
  /-- Apply hardware reset (R210; log 8). -/
  | hardwareReset
  deriving DecidableEq, Repr

/-- The state. WINDOW, CREDITS and STREAK are all the state the spec gives the block (R211); IBUF exists during an
operation only (R24, R40); the last three fields are the model's own (logs 1, 2, 4). -/
structure State where
  /-- WINDOW, the current window size (R20). -/
  window : Reg
  /-- CREDITS, the remaining sends permitted (R21). -/
  credits : Reg
  /-- STREAK, the count of consecutive acknowledgements (R22). -/
  streak : Reg
  /-- IBUF of the operation being performed; `none`, no buffer, between operations and where the host gives none. A
  zero-length buffer is `some []`, distinct from no buffer (R24, R40; log 3). -/
  ibuf : Option Buffer
  /-- The host's requests not yet taken, oldest first (R8, R48; log 1). -/
  requests : List Request
  /-- The responses returned so far, oldest first: the observation of the run (R218; log 2). -/
  responses : List Response
  /-- PAYLOAD_MAX, `none` for unbounded: an open parameter no operation changes (R9, R53; log 4). -/
  payloadMax : Option Nat
  deriving DecidableEq, Repr

/-- The state after hardware reset (R24, R210, R211): `(15, 15, 0)`, no buffer, nothing presented, nothing returned.
PAYLOAD_MAX is `none`: DESIGN CHOICE (log 4). -/
def State.reset : State where
  window := BitVec.ofNat Config.regBits Config.windowDefault
  credits := BitVec.ofNat Config.regBits Config.windowDefault
  streak := 0
  ibuf := none
  requests := []
  responses := []
  payloadMax := none

/-- What a step or a meaning answers. -/
abbrev Result := Host.Outcome State Fault Refusal

end Sys2Proof.Machine
end

