-- ==== Sys2Proof/Machine/Operands.lean ====
section
/-! DEFINITION. How operands are read: the header byte and its two fields (`30_encoding.md` R60), the length bound on
IBUF (`20_memory.md` R53), forward distances on the circle of sequence numbers (`41_sequence_space.md` R113, R114),
and the fields of a response word (R70). -/

namespace Sys2Proof.Machine

/-! ## The header byte (R60) -/

/-- `H = sequence | (opCode << 6)` (R60, R90): always the exact concatenation of the two fields (R92). -/
def headerByte (code : Code) (seq : SeqNum) : Byte :=
  seq.setWidth 8 ||| (code.setWidth 8 <<< 6)

/-- `H[5:0]`, the sequence number (R60, R93). -/
def headerSeq (h : Byte) : SeqNum := h.extractLsb' 0 6

/-- `H[7:6]`, the operation code (R60, R93). -/
def headerCode (h : Byte) : Code := h.extractLsb' 6 2

/-! ## Buffers (R40, R41, R53) -/

/-- The payload SEG.ENC reads: IBUF; a free value when the host gave no buffer (R40, R90; log 3). -/
def payloadOf (code : Code) (seq : SeqNum) (ibuf : Option Buffer) : Buffer :=
  ibuf.getD (Config.absentPayload code seq)

/-- The frame SEG.DEC reads: IBUF; a free value when the host gave no buffer (R40, R93; log 3). -/
def frameOf (ibuf : Option Buffer) : Buffer := ibuf.getD Config.absentFrame

/-- `B[i]`, byte `i` of a buffer; there is no byte at or past its length (R13, R41). -/
def byteAt (b : Buffer) (i : Nat) : Option Byte := b[i]?

/-- Whether `len` bytes are more than a finite PAYLOAD_MAX and `extra` header bytes allow (R53); an unbounded
PAYLOAD_MAX allows every length. -/
def tooLong (payloadMax : Option Nat) (extra len : Nat) : Bool :=
  match payloadMax with
  | none => false
  | some m => m + extra < len

/-! ## Sequence numbers (R110, R111, R114) -/

/-- The distance from `lo` forward to `x`, `(x - lo) mod 64` (R113 (g), R114). -/
def forwardDistance (lo x : SeqNum) : Nat :=
  (x.toNat + Config.seqMod - lo.toNat) % Config.seqMod

/-! ## Fields of a response word (R70), for whoever reads one -/

/-- `RSP.op`, bits 31:28. -/
def rspOp (r : RspWord) : OpSelect := r.extractLsb' 28 4
/-- `RSP.status`, bits 27:24. -/
def rspStatus (r : RspWord) : BitVec 4 := r.extractLsb' 24 4
/-- Bits 23:21, always zero. -/
def rspReserved (r : RspWord) : BitVec 3 := r.extractLsb' 21 3
/-- `RSP.flag`, bit 20. -/
def rspFlag (r : RspWord) : Bool := r.getLsbD 20
/-- `RSP.code`, bits 19:18. -/
def rspCode (r : RspWord) : Code := r.extractLsb' 18 2
/-- `RSP.r2`, bits 17:12. -/
def rspR2 (r : RspWord) : Reg := r.extractLsb' 12 6
/-- `RSP.r1`, bits 11:6. -/
def rspR1 (r : RspWord) : Reg := r.extractLsb' 6 6
/-- `RSP.r0`, bits 5:0. -/
def rspR0 (r : RspWord) : Reg := r.extractLsb' 0 6

end Sys2Proof.Machine
end

