-- ==== Sys2Proof/Machine/Flags.lean ====
section
/-! DEFINITION. The computations of the response's `flag` bit, the block's only boolean result (`30_encoding.md` R72).
It is returned and never stored (`10_state.md` R28). Every other operation returns `flag` = 0 (R71). -/

namespace Sys2Proof.Machine

/-- SEG.DEC: 1 exactly when a segment was decoded, that is, when the buffer has a header byte (R93, R94). -/
def segmentFlag (frame : Buffer) : Bool := !frame.isEmpty

/-- SEQ.IN: is `x` strictly between `lo` and `hi`, going forward from `lo` (R114), or below `hi` when there is no
`lo` (R115)? -/
def memberFlag (noLo : Bool) (lo hi x : SeqNum) : Bool :=
  if noLo then x.toNat < hi.toNat
  else 0 < forwardDistance lo x && forwardDistance lo x < forwardDistance lo hi

/-- WIN.TAKE: 1 when the credit is granted (R132). -/
def grantFlag (credits : Reg) : Bool := 0 < credits.toNat

/-- WIN.ACK: 1 exactly when the window grew (R134). -/
def grewFlag (before after : Reg) : Bool := before.toNat < after.toNat

end Sys2Proof.Machine
end

