-- ==== Sys2Proof/Machine/Ops.lean ====
section
/-! DEFINITION. The shared operations: the command port (taking a request, answering it), the response word and
statuses (`30_encoding.md` R70, `60_exceptions.md` R191, R192), the arithmetic of the sequence unit
(`41_sequence_space.md`) and the update laws of the window unit (`42_window.md`). -/

namespace Sys2Proof.Machine

/-! ## The response word -/

/-- The code of a status (R191). -/
def Status.code : Status → BitVec 4
  | .ok => 0
  | .illegalCmd => 1
  | .noSegment => 2
  | .noCredit => 3
  | .length => 4

/-- `rsp(op, status, flag, code, r2, r1, r0) = (op << 28) | (status << 24) | (flag << 20) | (code << 18) |
(r2 << 12) | (r1 << 6) | r0` (R70). -/
def responseWord (op : OpSelect) (status : Status) (flag : Bool) (code : Code) (r2 r1 r0 : Reg) : RspWord :=
  (op.setWidth Config.rspBits <<< 28) ||| (status.code.setWidth Config.rspBits <<< 24) ||| ((BitVec.ofBool flag).setWidth Config.rspBits <<< 20) |||
    (code.setWidth Config.rspBits <<< 18) ||| (r2.setWidth Config.rspBits <<< 12) ||| (r1.setWidth Config.rspBits <<< 6) ||| r0.setWidth Config.rspBits

/-! ## Updates of the state -/

/-- Write the three registers together, at the end of the operation (R15, R48). -/
def State.writeUnit (s : State) (window credits streak : Reg) : State :=
  { s with window := window, credits := credits, streak := streak }

/-- Return a response word and an output buffer to the host (R8, R42); IBUF is not modified (R42). -/
def State.answer (s : State) (rsp : RspWord) (obuf : Buffer) : State :=
  { s with responses := s.responses ++ [⟨rsp, obuf⟩] }

/-- Take the next request off the port; `ibuf` is the buffer that came with it, if one did (R40, R48). -/
def State.take (s : State) (rest : List Request) (ibuf : Option Buffer) : State :=
  { s with requests := rest, ibuf := ibuf }

/-- The end of an operation: the block keeps no input buffer afterwards (R40). -/
def State.release (s : State) : State := { s with ibuf := none }

/-- Present a command at the front of the port, so that it is the next one taken. -/
def State.present (s : State) (cmd : Word) (ibuf : Option Buffer) : State :=
  { s with requests := .command cmd ibuf :: s.requests }

/-- WINDOW, CREDITS, STREAK at their reset values, whether by WIN.RESET or by hardware reset (R24, R131, R210). -/
def State.resetUnit (s : State) : State :=
  s.writeUnit (BitVec.ofNat Config.regBits Config.windowDefault) (BitVec.ofNat Config.regBits Config.windowDefault) 0

/-! ## Statuses in place of exceptions -/

/-- `raise <Status>` (R192): the operation stops, the registers keep their values, OBUF is empty, and the response
records what R191 says: `op` and the status; NO_CREDIT alone carries the registers, with `r1` = 0. -/
def raise (op : OpSelect) (status : Status) (s : State) : State :=
  match status with
  | .noCredit => s.answer (responseWord op .noCredit false 0 s.streak 0 s.window) []
  | st => s.answer (responseWord op st false 0 0 0 0) []

/-- What the block does with a command word that matches no row: ILLEGAL_CMD, `op` repeated, no effect (R69). -/
def rejectCommand (w : Word) (s : State) : State := raise (cmdOp w) .illegalCmd s

/-- End the operation with the three registers in the response, `r2` = STREAK, `r1` = CREDITS, `r0` = WINDOW as the
operation leaves them (R71). -/
def reportUnit (op : OpSelect) (flag : Bool) (s : State) : State :=
  s.answer (responseWord op .ok flag 0 s.streak s.credits s.window) []

/-! ## The command port -/

/-- The request to perform next, and those after it (R48). -/
def fetch (s : State) : Option (Request × List Request) :=
  match s.requests with
  | [] => none
  | r :: rest => some (r, rest)

/-- The end of an operation's step: whatever it answered, IBUF is gone (R40). -/
def conclude (r : Result) : Result :=
  match r with
  | .next t => .next t.release
  | .fault f => .fault f
  | .refused f => .refused f

/-! ## The sequence unit -/

/-- `increment(seq) = (seq + 1) mod 64` (R110). -/
def increment (seq : SeqNum) : SeqNum := BitVec.ofNat Config.seqBits ((seq.toNat + 1) % Config.seqMod)

/-- `decrement(seq, n) = (seq - n + 64) mod 64` (R111); with `n` at most 63 nothing is negative (R112). -/
def decrement (seq n : SeqNum) : SeqNum :=
  BitVec.ofNat Config.seqBits ((seq.toNat + Config.seqMod - n.toNat) % Config.seqMod)

/-! ## The update laws of the window unit (saturating, never wrapping: R138) -/

/-- `clamp(v, lo, hi) = max(lo, min(v, hi))` (R11). -/
def clamp (v lo hi : Nat) : Nat := max lo (min v hi)

/-- `min(CREDITS + n, WINDOW)`; the sum is not truncated before the `min` (R133). -/
def creditsGiven (credits window : Reg) (n : SeqNum) : Reg :=
  BitVec.ofNat Config.regBits (min (credits.toNat + n.toNat) window.toNat)

/-- `STREAK + 1 > WINDOW`: this acknowledgement passes the threshold (R134). -/
def streakPasses (streak window : Reg) : Bool := window.toNat < streak.toNat + 1

/-- `min(WINDOW + 1, WINDOW_MAX)` (R134). -/
def windowGrown (window : Reg) : Reg := BitVec.ofNat Config.regBits (min (window.toNat + 1) Config.windowMax)

/-- `clamp(((WINDOW - 1) div 2) + 1, WINDOW_MIN, WINDOW_MAX)` (R135). -/
def windowShrunk (window : Reg) : Reg :=
  BitVec.ofNat Config.regBits (clamp ((window.toNat - 1) / 2 + 1) Config.windowMin Config.windowMax)

end Sys2Proof.Machine
end

