-- ==== Sys2Proof/Machine/Codec.lean ====
section
/-! DEFINITION. The codec unit: SEG.ENC and SEG.DEC (`40_segment_codec.md`). Neither reads or writes a register (R25),
and neither checks anything about the segment's meaning (R91, R95). -/

namespace Sys2Proof.Machine

/-- SEG.ENC (R90): the frame is the header byte and then the payload from IBUF, unchanged and in order; LENGTH when
the payload is longer than a finite PAYLOAD_MAX. -/
def execSegEnc (code : Code) (seq : SeqNum) (s : State) : Result :=
  if tooLong s.payloadMax 0 (payloadOf code seq s.ibuf).length then .next (raise Opcode.segEnc.select .length s)
  else .next (s.answer (responseWord Opcode.segEnc.select .ok false 0 0 0 0)
    (headerByte code seq :: payloadOf code seq s.ibuf))

/-- SEG.DEC (R93): the header byte split into code and sequence number, the payload is the rest; LENGTH, then
NO_SEGMENT for the empty buffer, in the order of R195. -/
def execSegDec (s : State) : Result :=
  if tooLong s.payloadMax Config.headerBytes (frameOf s.ibuf).length then
    .next (raise Opcode.segDec.select .length s)
  else
    match frameOf s.ibuf with
    | [] => .next (raise Opcode.segDec.select .noSegment s)
    | h :: payload =>
      .next (s.answer
        (responseWord Opcode.segDec.select .ok (segmentFlag (h :: payload)) (headerCode h) 0 0 (headerSeq h)) payload)

end Sys2Proof.Machine
end

