-- ==== Sys2Proof/Machine/Sequence.lean ====
section
/-! DEFINITION. The sequence unit: SEQ.INC, SEQ.DEC, SEQ.IN (`41_sequence_space.md`). No register is read or written
(R25), the status is always OK (R191), and OBUF is empty (R71). -/

namespace Sys2Proof.Machine

/-- SEQ.INC (R110). -/
def execSeqInc (seq : SeqNum) (s : State) : Result :=
  .next (s.answer (responseWord Opcode.seqInc.select .ok false 0 0 0 (increment seq)) [])

/-- SEQ.DEC (R111). -/
def execSeqDec (seq n : SeqNum) (s : State) : Result :=
  .next (s.answer (responseWord Opcode.seqDec.select .ok false 0 0 0 (decrement seq n)) [])

/-- SEQ.IN (R114, R115): the answer is the `flag` bit; `lo` is ignored when `noLo` holds. -/
def execSeqIn (noLo : Bool) (lo hi x : SeqNum) (s : State) : Result :=
  .next (s.answer (responseWord Opcode.seqIn.select .ok (memberFlag noLo lo hi x) 0 0 0 0) [])

end Sys2Proof.Machine
end

