-- ==== Sys2Proof/Machine/Window.lean ====
section
/-! DEFINITION. The window unit: WIN.RESET, WIN.TAKE, WIN.GIVE, WIN.ACK, WIN.GAP, WIN.READ (`42_window.md`). Every
response reports the registers as the operation leaves them (R71). -/

namespace Sys2Proof.Machine

/-- WIN.RESET (R131). -/
def execWinReset (s : State) : Result :=
  .next (reportUnit Opcode.winReset.select false s.resetUnit)

/-- WIN.TAKE (R132): one credit, or NO_CREDIT with nothing written. -/
def execWinTake (s : State) : Result :=
  if grantFlag s.credits then
    .next (reportUnit Opcode.winTake.select true
      (s.writeUnit s.window (BitVec.ofNat Config.regBits (s.credits.toNat - 1)) s.streak))
  else .next (raise Opcode.winTake.select .noCredit s)

/-- WIN.GIVE (R133): give back `n` credits, capped at WINDOW. -/
def execWinGive (n : SeqNum) (s : State) : Result :=
  .next (reportUnit Opcode.winGive.select false
    (s.writeUnit s.window (creditsGiven s.credits s.window n) s.streak))

/-- WIN.ACK (R134): past the threshold the window grows (cap 32) and the streak clears, else the streak counts;
CREDITS is not changed (R139). -/
def execWinAck (s : State) : Result :=
  if streakPasses s.streak s.window then
    .next (reportUnit Opcode.winAck.select (grewFlag s.window (windowGrown s.window))
      (s.writeUnit (windowGrown s.window) s.credits 0))
  else
    .next (reportUnit Opcode.winAck.select false
      (s.writeUnit s.window s.credits (BitVec.ofNat Config.regBits (s.streak.toNat + 1))))

/-- WIN.GAP (R135): shrink the window, set CREDITS to it, clear STREAK. -/
def execWinGap (s : State) : Result :=
  .next (reportUnit Opcode.winGap.select false
    (s.writeUnit (windowShrunk s.window) (windowShrunk s.window) 0))

/-- WIN.READ (R136): report the registers, write nothing. -/
def execWinRead (s : State) : Result :=
  .next (reportUnit Opcode.winRead.select false s)

end Sys2Proof.Machine
end

