-- ==== Sys2Proof/Machine/Dispatch.lean ====
section
/-! DEFINITION. One arm per operation of `30_encoding.md` R67, each a direct call of its meaning. -/

namespace Sys2Proof.Machine

def exec (i : Instr) (s : State) : Host.Outcome State Fault Refusal :=
  match i with
  | .segEnc code seq => Sys2Proof.Machine.execSegEnc code seq s
  | .segDec => Sys2Proof.Machine.execSegDec s
  | .seqInc seq => Sys2Proof.Machine.execSeqInc seq s
  | .seqDec seq n => Sys2Proof.Machine.execSeqDec seq n s
  | .seqIn noLo lo hi x => Sys2Proof.Machine.execSeqIn noLo lo hi x s
  | .winReset => Sys2Proof.Machine.execWinReset s
  | .winTake => Sys2Proof.Machine.execWinTake s
  | .winGive n => Sys2Proof.Machine.execWinGive n s
  | .winAck => Sys2Proof.Machine.execWinAck s
  | .winGap => Sys2Proof.Machine.execWinGap s
  | .winRead => Sys2Proof.Machine.execWinRead s

end Sys2Proof.Machine
end

