-- ==== Sys2Proof/Machine/Step.lean ====
section
/-! DEFINITION. One step: the block takes the oldest request and carries it out to completion (`00_scope.md` R8,
`20_memory.md` R48, `30_encoding.md` R77); with none it is idle (`60_exceptions.md` R194, R200). -/

namespace Sys2Proof.Machine

/-- One step of the block. A command is decoded and performed, or answered ILLEGAL_CMD (R69, R77); hardware reset
writes the registers, keeps no buffer (R211) and answers nothing (R210); with no request the state stays (R200; log 9). -/
def step (s : State) : Host.Outcome State Fault Refusal :=
  match fetch s with
  | none => .next s
  | some (.hardwareReset, rest) => .next (s.take rest none).resetUnit
  | some (.command w ibuf, rest) =>
    match decode w with
    | .ok i => conclude (exec i (s.take rest ibuf))
    | .error _ => conclude (.next (rejectCommand w (s.take rest ibuf)))

/-- The state with the command word of bits `w` presented as the next request: the host's act of issuing a command
(R8; log 1). A codec command comes with the buffer that stands in IBUF, a zero-length one where none stands (as at
reset); the other operations come with none (R40). DESIGN CHOICE for a length `nbits` other than 32, which R75 does
not know (log 17): a shorter number is extended with zeros, a longer one is cut to bits 31:0. -/
def State.withFetchWord (s : State) (nbits w : Nat) : State :=
  let word := tableWord nbits w
  s.present word (if takesBuffer word then some (s.ibuf.getD []) else none)

end Sys2Proof.Machine
end

