-- ==== Sys2Proof/Safety.lean ====
section
/-! DEFINITION. The terms claims use: the state invariant (`10_state.md` R23), legality of a command word read from its
fields (`30_encoding.md` R67, R68), what selecting an operation means for a step (R69, R77), and operations performed
one after another (`20_memory.md` R48). -/

namespace Sys2Proof.Machine

/-- The state invariant `Inv` (R23): `1 ≤ WINDOW ≤ 32`, `CREDITS ≤ WINDOW`, `STREAK ≤ WINDOW`. -/
abbrev State.Inv (s : State) : Prop :=
  (1 ≤ s.window.toNat ∧ s.window.toNat ≤ 32) ∧ s.credits.toNat ≤ s.window.toNat ∧ s.streak.toNat ≤ s.window.toNat

/-! ## Legality, from the column "fields used" of R67 -/

/-- The operand fields of a command word (R66). -/
inductive Field where
  | a | b | c | code | none
  deriving DecidableEq, Repr

/-- All five operand fields (R66). -/
def operandFields : List Field := [.a, .b, .c, .code, .none]

/-- The eleven operations, in the order of R67. -/
def opcodes : List Opcode :=
  [.segEnc, .segDec, .seqInc, .seqDec, .seqIn, .winReset, .winTake, .winGive, .winAck, .winGap, .winRead]

/-- The column "fields used" of R67. -/
def fieldsUsed : Opcode → List Field
  | .segEnc => [.code, .a]
  | .segDec => []
  | .seqInc => [.a]
  | .seqDec => [.a, .b]
  | .seqIn => [.a, .none, .b, .c]
  | .winReset => []
  | .winTake => []
  | .winGive => [.a]
  | .winAck => []
  | .winGap => []
  | .winRead => []

/-- Whether a field of a command word is zero. -/
def fieldIsZero (w : Word) : Field → Bool
  | .a => cmdA w == 0
  | .b => cmdB w == 0
  | .c => cmdC w == 0
  | .code => cmdCode w == 0
  | .none => !cmdNone w

/-- A command word is legal by its fields (R68, R69): `op` names an operation, the reserved bits are zero, and so is
every field the operation does not use. -/
def legalByFields (w : Word) : Bool :=
  opcodes.any fun o =>
    cmdOp w == o.select && cmdReserved w == 0 &&
      operandFields.all fun f => (fieldsUsed o).contains f || fieldIsZero w f

/-! ## What a command word does -/

/-- Every command word whose `op` field is `op` is carried out as `R67`'s row says: a word that satisfies the row's
match and mask performs the operation `i` reads from it, on the state with the request taken and IBUF in place, and
IBUF is gone afterwards; any other word is answered ILLEGAL_CMD with no effect (R69, R77). -/
def CommandSelects (op : OpSelect) (pattern mask : Word) (i : Word → Instr) : Prop :=
  ∀ (s : State) (w : Word) (b : Option Buffer) (rest : List Request),
    s.requests = .command w b :: rest → w.extractLsb' 28 4 = op →
      (w &&& mask = pattern →
        step s = conclude (exec (i w) { s with requests := rest, ibuf := b })) ∧
      (w &&& mask ≠ pattern →
        step s = .next { s with requests := rest, ibuf := none, responses :=
          s.responses ++ [⟨(op.setWidth 32 <<< 28) ||| (1#32 <<< 24), []⟩] })

/-- Operations performed one after another, each on the state the one before left (R48). -/
def performAll : List Instr → State → Result
  | [], s => .next s
  | i :: is, s =>
    match exec i s with
    | .next t => performAll is t
    | .fault r => .fault r
    | .refused r => .refused r

/-- Whether a command comes with a buffer longer than a finite PAYLOAD_MAX allows: SEG.ENC a payload of more bytes,
SEG.DEC a frame of more bytes and a header (R53). -/
def overLength (payloadMax : Option Nat) (op : OpSelect) (len : Nat) : Bool :=
  match payloadMax with
  | none => false
  | some m => (op == 0x1#4 && decide (m < len)) || (op == 0x2#4 && decide (m + 1 < len))

/-- The operations of the window unit, the only ones that read or write a register (R3, R25). -/
def isWindowOp : Instr → Bool
  | .winReset | .winTake | .winGive _ | .winAck | .winGap | .winRead => true
  | .segEnc _ _ | .segDec | .seqInc _ | .seqDec _ _ | .seqIn _ _ _ _ => false

end Sys2Proof.Machine
end

