-- ==== Sys2Proof/Certificates/Slice0/Obligations.lean ====
section
/-! DEFINITION. The statements for the provers, each from the numbered rules of spec/ that its docstring names. -/

open Sys2Proof Sys2Proof.Machine

/-! ## Reset and the invariant -/

/-- R211 (`70_reset_and_hazards.md`): WINDOW 15, CREDITS 15, STREAK 0, and no buffer, after reset. -/
def Obligations.ResetLeavesDefaultRegisters : Prop :=
  State.reset.window.toNat = 15 ∧ State.reset.credits.toNat = 15 ∧ State.reset.streak.toNat = 0 ∧
    State.reset.ibuf = none

/-- R23, R213: the reset state satisfies `Inv`. -/
def Obligations.ResetSatisfiesInvariant : Prop := State.reset.Inv

/-- R23, R137: every step keeps `Inv`, whatever the host presents. -/
def Obligations.StepKeepsInvariant : Prop :=
  ∀ s t : State, s.Inv → step s = .next t → t.Inv

/-- R137 with its reasons: every operation answers, keeps `Inv`, and changes the registers only as the rule says. -/
def Obligations.OperationsKeepInvariant : Prop :=
  ∀ (i : Instr) (s : State), s.Inv → ∃ t, exec i s = .next t ∧ t.Inv ∧
    match i with
    | .winReset => t.window.toNat = 15 ∧ t.credits.toNat = 15 ∧ t.streak.toNat = 0
    | .winTake => t.window = s.window ∧ t.streak = s.streak ∧
        (0 < s.credits.toNat → t.credits.toNat + 1 = s.credits.toNat) ∧ (s.credits.toNat = 0 → t.credits = s.credits)
    | .winGive _ => t.window = s.window ∧ t.streak = s.streak ∧ t.credits.toNat ≤ t.window.toNat
    | .winAck => t.credits = s.credits ∧
        ((t.streak.toNat = 0 ∧ s.window.toNat ≤ t.window.toNat ∧ t.window.toNat ≤ s.window.toNat + 1 ∧
            t.window.toNat ≤ 32) ∨
          (t.window = s.window ∧ s.streak.toNat < t.streak.toNat ∧ t.streak.toNat ≤ s.window.toNat))
    | .winGap => 1 ≤ t.window.toNat ∧ t.window.toNat ≤ 16 ∧ t.credits = t.window ∧ t.streak.toNat = 0
    | .winRead | .segEnc _ _ | .segDec | .seqInc _ | .seqDec _ _ | .seqIn _ _ _ _ =>
        t.window = s.window ∧ t.credits = s.credits ∧ t.streak = s.streak

/-- R40, R211: no input buffer outlives an operation, and no step changes PAYLOAD_MAX (log 4). -/
def Obligations.NoBufferOutlivesItsOperation : Prop :=
  ∀ s t : State, s.ibuf = none → step s = .next t → t.ibuf = none ∧ t.payloadMax = s.payloadMax

/-! ## The command port -/

/-- R77, R48: a step whose next request is a command that decodes to `i` is `exec` of `i` on the state with the
request taken and IBUF in place, and IBUF is gone afterwards. -/
def Obligations.StepRunsDecodedCommand : Prop :=
  ∀ (s : State) (w : Word) (b : Option Buffer) (rest : List Request) (i : Instr),
    s.requests = .command w b :: rest → decode w = .ok i →
      (∀ t, exec i { s with requests := rest, ibuf := b } = .next t → step s = .next { t with ibuf := none }) ∧
      (∀ r, exec i { s with requests := rest, ibuf := b } = .fault r → step s = .fault r) ∧
      (∀ r, exec i { s with requests := rest, ibuf := b } = .refused r → step s = .refused r)

/-- R194, R200: with no request the block is idle and holds everything (the model's idle step: log 9). -/
def Obligations.IdleWithoutRequest : Prop :=
  ∀ s : State, s.requests = [] → step s = .next s

/-- R210: hardware reset has the effect of WIN.RESET on the registers and returns no response. That it is taken
between operations is the model's choice (log 8). -/
def Obligations.HardwareResetActsAsWinReset : Prop :=
  ∀ (s : State) (rest : List Request), s.requests = .hardwareReset :: rest →
    ∃ t u, step s = .next t ∧ exec .winReset s = .next u ∧
      t = { s with window := 15#6, credits := 15#6, streak := 0#6, requests := rest, ibuf := none } ∧
      t.window = u.window ∧ t.credits = u.credits ∧ t.streak = u.streak

/-- R48, R210: requests are taken one at a time in the order presented; a command adds one response after all earlier
ones, which stay as they were; hardware reset adds none (R210). That hardware reset is a request, taken between
operations, and leaves the waiting requests and the earlier responses, is the model's choice of log 8. -/
def Obligations.RequestsTakenInOrder : Prop :=
  ∀ (s : State) (r : Request) (rest : List Request), s.requests = r :: rest →
    ∃ t, step s = .next t ∧ t.requests = rest ∧
      match r with
      | .command _ _ => ∃ x, t.responses = s.responses ++ [x]
      | .hardwareReset => t.responses = s.responses

/-- R193: from any state, any sequence of command words, each with or without a buffer, gets a response to each, in as
many steps, and a state that satisfied `Inv` still does. -/
def Obligations.EveryCommandIsAnswered : Prop :=
  ∀ (s : State) (commands : List (Word × Option Buffer)),
    s.requests = commands.map (fun c => Request.command c.1 c.2) →
      ∃ (t : State) (new : List Response), Host.Core.run core commands.length s = .next t ∧ t.requests = [] ∧
        t.responses = s.responses ++ new ∧ new.length = commands.length ∧ (s.Inv → t.Inv)

/-- R70, R191: every command is answered with one response whose `op` field repeats `CMD[31:28]`, whose bits 23:21
are zero and whose status is one of the five codes. -/
def Obligations.EveryResponseHasTheFormat : Prop :=
  ∀ (s : State) (w : Word) (b : Option Buffer) (rest : List Request), s.requests = .command w b :: rest →
    ∃ t x, step s = .next t ∧ t.responses = s.responses ++ [x] ∧
      x.rsp.extractLsb' 28 4 = w.extractLsb' 28 4 ∧ x.rsp.extractLsb' 21 3 = 0#3 ∧
      (x.rsp.extractLsb' 24 4).toNat ≤ 4

/-- R195: the first check that applies decides the status: ILLEGAL_CMD, then LENGTH, then NO_SEGMENT or NO_CREDIT,
otherwise OK. A legal codec command comes with its buffer `b` (R8, R40). -/
def Obligations.FirstFailingCheckDecidesStatus : Prop :=
  ∀ (s : State) (w : Word) (ibuf : Option Buffer) (b : Buffer) (rest : List Request),
    s.requests = .command w ibuf :: rest → (legalByFields w = true → takesBuffer w = true → ibuf = some b) →
    ∃ t x, step s = .next t ∧ t.responses = s.responses ++ [x] ∧
      (x.rsp.extractLsb' 24 4).toNat =
        if legalByFields w = false then 1
        else if overLength s.payloadMax (cmdOp w) b.length = true then 4
        else if cmdOp w = 0x2#4 ∧ b = [] then 2
        else if cmdOp w = 0x7#4 ∧ s.credits.toNat = 0 then 3
        else 0

/-- R192, R196: a command that ends in a status other than OK has had no effect: the registers stay, OBUF is empty. -/
def Obligations.FailingCommandHasNoEffect : Prop :=
  ∀ (s : State) (w : Word) (b : Option Buffer) (rest : List Request), s.requests = .command w b :: rest →
    ∃ t x, step s = .next t ∧ t.responses = s.responses ++ [x] ∧
      (x.rsp.extractLsb' 24 4 ≠ 0#4 →
        x.obuf = [] ∧ t.window = s.window ∧ t.credits = s.credits ∧ t.streak = s.streak)

/-- R218: what an operation returns and the registers it leaves depend on the registers, IBUF and PAYLOAD_MAX alone,
not on earlier responses or on what the host presents next. -/
def Obligations.OutcomeDependsOnInputsAlone : Prop :=
  ∀ (i : Instr) (s s' : State), s.window = s'.window → s.credits = s'.credits → s.streak = s'.streak →
    s.ibuf = s'.ibuf → s.payloadMax = s'.payloadMax →
      ∃ t t' x, exec i s = .next t ∧ exec i s' = .next t' ∧
        t.responses = s.responses ++ [x] ∧ t'.responses = s'.responses ++ [x] ∧
        t.window = t'.window ∧ t.credits = t'.credits ∧ t.streak = t'.streak

/-! ## Encodings -/

/-- R66, R67: decoding the encoding of an instruction gives it back, with every operand at every value. -/
def Obligations.DecodeOfEncodeIsIdentity : Prop :=
  ∀ i : Instr, decode (encode i) = .ok i

/-- A command word that decodes is the encoding of what it decodes to (R67, R68). For SEQ.IN with `none` = 1 and a
non-zero field `a` this is the model's choice of log 11: the syntax keeps the ignored field, where the assembler's
form (R73) would write 0. -/
def Obligations.EncodeOfDecodeIsIdentity : Prop :=
  ∀ (w : Word) (i : Instr), decode w = .ok i → encode i = w

/-- R67: no command word matches two rows of the operation select map. -/
def Obligations.TableRowsAreDisjoint : Prop :=
  ∀ (w : Word) (r r' : Row), r ∈ opcodeTable → r' ∈ opcodeTable →
    w &&& r.mask = r.pattern → w &&& r'.mask = r'.pattern → r = r'

/-- R68: a command word is legal exactly when its `op` names an operation, bits 27:21 are zero and every field the
operation does not use is zero; SEQ.IN with `none` = 1 ignores the field `a`. -/
def Obligations.UnusedFieldsMustBeZero : Prop :=
  (∀ w : Word, (∃ i, decode w = .ok i) ↔ legalByFields w = true) ∧
  (∀ (lo lo' hi x : SeqNum) (s : State), exec (.seqIn true lo hi x) s = exec (.seqIn true lo' hi x) s)

/-- R69: an illegal command word performs no operation, writes no register and is answered with
`(CMD[31:28] << 28) | (ILLEGAL_CMD << 24)` and an empty OBUF; the all-zero word is illegal. -/
def Obligations.IllegalCommandHasNoEffect : Prop :=
  (∀ (s : State) (w : Word) (b : Option Buffer) (rest : List Request),
    s.requests = .command w b :: rest → legalByFields w = false →
      step s = .next { s with requests := rest, ibuf := none, responses :=
        s.responses ++ [⟨((w.extractLsb' 28 4).setWidth 32 <<< 28) ||| (1#32 <<< 24), []⟩] }) ∧
  (∀ w : Word, cmdOp w = 0x0#4 ∨ 0xC#4 ≤ cmdOp w ∨ cmdReserved w ≠ 0#7 → legalByFields w = false) ∧
  legalByFields 0x00000000#32 = false

/-- R66 read through R12: the seven fields of the command word partition its 32 bits, and the encoder's formula puts
each operand into its field. -/
def Obligations.CommandWordFieldsPartition : Prop :=
  (∀ w : Word, w.toNat = (cmdOp w).toNat * 2 ^ 28 + (cmdReserved w).toNat * 2 ^ 21 + (cmdNone w).toNat * 2 ^ 20 +
    (cmdCode w).toNat * 2 ^ 18 + (cmdC w).toNat * 2 ^ 12 + (cmdB w).toNat * 2 ^ 6 + (cmdA w).toNat) ∧
  (∀ (op : OpSelect) (none : Bool) (code : Code) (c b a : SeqNum),
    (commandWord op none code c b a).toNat = op.toNat * 2 ^ 28 + none.toNat * 2 ^ 20 + code.toNat * 2 ^ 18 +
      c.toNat * 2 ^ 12 + b.toNat * 2 ^ 6 + a.toNat)

/-- R70 read through R12, with the codes of R191: the response word as a number. -/
def Obligations.ResponseWordLayout : Prop :=
  (∀ (op : OpSelect) (st : Status) (flag : Bool) (code : Code) (r2 r1 r0 : Reg),
    (responseWord op st flag code r2 r1 r0).toNat = op.toNat * 2 ^ 28 + st.code.toNat * 2 ^ 24 +
      flag.toNat * 2 ^ 20 + code.toNat * 2 ^ 18 + r2.toNat * 2 ^ 12 + r1.toNat * 2 ^ 6 + r0.toNat) ∧
  [Status.ok, .illegalCmd, .noSegment, .noCredit, .length].map (fun st => st.code.toNat) = [0, 1, 2, 3, 4]

/-- R73: words written out from the assembler's table decode to the operations they stand for. -/
def Obligations.WrittenWordsDecode : Prop :=
  (decode 0x10080005#32).toOption = some (.segEnc 2#2 5#6) ∧ (decode 0x20000000#32).toOption = some .segDec ∧
  (decode 0x400000C5#32).toOption = some (.seqDec 5#6 3#6) ∧
  (decode 0x5003C0BC#32).toOption = some (.seqIn false 60#6 2#6 60#6) ∧
  (decode 0x80000003#32).toOption = some (.winGive 3#6) ∧ (decode 0xA0000000#32).toOption = some .winGap ∧
  (decode 0x10100000#32).toOption = none

/-- R60: the header byte is `sequenceNumber + 64 × operationCode`; conversely its fields are `H mod 64` and
`H div 64`; every one of the 256 bytes is a well-formed header. -/
def Obligations.HeaderByteLayout : Prop :=
  (∀ (code : Code) (seq : SeqNum), (headerByte code seq).toNat = seq.toNat + 64 * code.toNat ∧
    headerCode (headerByte code seq) = code ∧ headerSeq (headerByte code seq) = seq) ∧
  (∀ h : Byte, (headerSeq h).toNat = h.toNat % 64 ∧ (headerCode h).toNat = h.toNat / 64 ∧
    headerByte (headerCode h) (headerSeq h) = h)

/-- R117: a sequence number that comes from a header byte, or from the field `c` of a command word (`a` and `b` too),
is at most SEQUENCE_NUMBER_MAX = 63, so the source's range test fails for no value and every instruction passes it. -/
def Obligations.SequenceNumbersAreInRange : Prop :=
  (∀ h : Byte, inSequenceRange (headerSeq h).toNat = true ∧ (headerSeq h).toNat ≤ 63) ∧
  (∀ w : Word, (cmdC w).toNat ≤ 63 ∧ (cmdB w).toNat ≤ 63 ∧ (cmdA w).toNat ≤ 63) ∧
  (∀ i : Instr, i.wellFormed = true) ∧ (∀ n : Nat, inSequenceRange n = true ↔ n ≤ 63)

/-- R63, with the client-sent names of R62 beside them: the names of the operation code, by the range of the header
byte; the same two bits carry different names in the two directions. -/
def Obligations.WireNamesByHeaderRange : Prop :=
  (∀ h : Byte, serverName (headerCode h) =
    if h.toNat ≤ 0x3F then .dataAck else if h.toNat ≤ 0x7F then .synAck
    else if h.toNat ≤ 0xBF then .rstOrRstAck else .gap) ∧
  (∀ h : Byte, clientName (headerCode h) =
    if h.toNat ≤ 0x3F then some .data else if h.toNat ≤ 0x7F then some .syn
    else if h.toNat ≤ 0xBF then some .rst else none)

/-! ## The codec unit -/

/-- R90: SEG.ENC, with the payload in IBUF. -/
def Obligations.SegEncPrependsHeader : Prop :=
  CommandSelects 0x1#4 0x10000000#32 0xFFF3FFC0#32
    (fun w => .segEnc (w.extractLsb' 18 2) (w.extractLsb' 0 6)) ∧
  (∀ (code : Code) (seq : SeqNum) (s : State) (payload : Buffer), s.ibuf = some payload →
    (∀ m, s.payloadMax = some m → payload.length ≤ m) →
    exec (.segEnc code seq) s = .next { s with responses := s.responses ++
      [⟨0x10000000#32, BitVec.ofNat 8 (seq.toNat + 64 * code.toNat) :: payload⟩] }) ∧
  (∀ (code : Code) (seq : SeqNum) (s : State) (payload : Buffer) (m : Nat), s.ibuf = some payload →
    s.payloadMax = some m → m < payload.length →
    exec (.segEnc code seq) s = .next { s with responses := s.responses ++ [⟨0x14000000#32, []⟩] })

/-- R93: SEG.DEC, with the frame in IBUF. -/
def Obligations.SegDecSplitsHeader : Prop :=
  CommandSelects 0x2#4 0x20000000#32 0xFFFFFFFF#32 (fun _ => .segDec) ∧
  (∀ (s : State) (h : Byte) (payload : Buffer), s.ibuf = some (h :: payload) →
    (∀ m, s.payloadMax = some m → payload.length + 1 ≤ m + 1) →
      exec .segDec s = .next { s with responses := s.responses ++
        [⟨responseWord 0x2#4 .ok true (BitVec.ofNat 2 (h.toNat / 64)) 0 0 (BitVec.ofNat 6 (h.toNat % 64)),
          payload⟩] }) ∧
  (∀ s : State, s.ibuf = some [] →
    exec .segDec s = .next { s with responses := s.responses ++ [⟨0x22000000#32, []⟩] }) ∧
  (∀ (s : State) (frame : Buffer) (m : Nat), s.ibuf = some frame → s.payloadMax = some m → m + 1 < frame.length →
    exec .segDec s = .next { s with responses := s.responses ++ [⟨0x24000000#32, []⟩] })

/-- What the spec leaves open is the model's choice of log 3: an operation presented without IBUF runs as it would
with some buffer, which nothing constrains; the nine operations outside the codec unit run alike with any buffer or
none (R40). -/
def Obligations.AbsentBufferActsAsSomeBuffer : Prop :=
  ∀ (i : Instr) (s : State), s.ibuf = none → ∃ (b : Buffer) (t : State),
    exec i s = .next t ∧ exec i { s with ibuf := some b } = .next { t with ibuf := some b } ∧
    ((i ≠ .segDec ∧ ∀ code seq, i ≠ .segEnc code seq) →
      ∀ b', exec i { s with ibuf := some b' } = .next { t with ibuf := some b' })

/-- R53: with a finite PAYLOAD_MAX a longer payload or frame ends with status LENGTH and no output; with none, no
operation ends with status LENGTH. -/
def Obligations.LengthBoundsTheBuffers : Prop :=
  (∀ (s : State) (m : Nat) (b : Buffer), s.payloadMax = some m → s.ibuf = some b →
    (∀ (code : Code) (seq : SeqNum), m < b.length → ∃ t x, exec (.segEnc code seq) s = .next t ∧
      t.responses = s.responses ++ [x] ∧ (rspStatus x.rsp).toNat = 4 ∧ x.obuf = []) ∧
    (m + 1 < b.length → ∃ t x, exec .segDec s = .next t ∧
      t.responses = s.responses ++ [x] ∧ (rspStatus x.rsp).toNat = 4 ∧ x.obuf = [])) ∧
  (∀ (s : State) (i : Instr), s.payloadMax = none → ∃ t x, exec i s = .next t ∧
    t.responses = s.responses ++ [x] ∧ (rspStatus x.rsp).toNat ≠ 4)

/-- R96: decoding an encoded segment returns its code, sequence number and payload, and encoding a decoded buffer
returns the buffer. -/
def Obligations.CodecRoundTrip : Prop :=
  (∀ (s : State) (code : Code) (seq : SeqNum) (payload : Buffer), s.ibuf = some payload →
    (∀ m, s.payloadMax = some m → payload.length ≤ m) →
    ∃ t x u y, exec (.segEnc code seq) s = .next t ∧ t.responses = s.responses ++ [x] ∧
      exec .segDec { t with ibuf := some x.obuf } = .next u ∧ u.responses = t.responses ++ [y] ∧
      rspStatus y.rsp = 0#4 ∧ rspFlag y.rsp = true ∧ rspCode y.rsp = code ∧ rspR0 y.rsp = seq ∧
      y.obuf = payload) ∧
  (∀ (s : State) (b : Buffer), s.ibuf = some b → 1 ≤ b.length →
    (∀ m, s.payloadMax = some m → b.length ≤ m + 1) →
    ∃ t x u y, exec .segDec s = .next t ∧ t.responses = s.responses ++ [x] ∧
      exec (.segEnc (rspCode x.rsp) (rspR0 x.rsp)) { t with ibuf := some x.obuf } = .next u ∧
      u.responses = t.responses ++ [y] ∧ y.obuf = b)

/-- R41, R46, R79: every byte is copied unchanged at its index: the frame's byte `i + 1` is the payload's byte `i`,
and nothing stands past the end. -/
def Obligations.BytesAreCopiedByIndex : Prop :=
  (∀ (code : Code) (seq : SeqNum) (s : State) (payload : Buffer), s.ibuf = some payload →
    (∀ m, s.payloadMax = some m → payload.length ≤ m) →
    ∃ t x, exec (.segEnc code seq) s = .next t ∧ t.responses = s.responses ++ [x] ∧
      x.obuf.length = payload.length + Config.headerBytes ∧ byteAt x.obuf 0 = some (headerByte code seq) ∧
      ∀ i, byteAt x.obuf (i + 1) = byteAt payload i) ∧
  (∀ (s : State) (frame : Buffer), s.ibuf = some frame → 1 ≤ frame.length →
    (∀ m, s.payloadMax = some m → frame.length ≤ m + 1) →
    ∃ t x, exec .segDec s = .next t ∧ t.responses = s.responses ++ [x] ∧
      x.obuf.length + Config.headerBytes = frame.length ∧ ∀ i, byteAt x.obuf i = byteAt frame (i + 1))

/-- R42, R79: no operation modifies IBUF, and the nine operations outside the codec unit return an empty OBUF;
every operation adds one response and leaves the waiting requests and PAYLOAD_MAX (logs 1, 4) as they were. -/
def Obligations.NoOperationModifiesTheInputBuffer : Prop :=
  ∀ (i : Instr) (s : State), ∃ t x, exec i s = .next t ∧ t.responses = s.responses ++ [x] ∧
    t.ibuf = s.ibuf ∧ t.requests = s.requests ∧ t.payloadMax = s.payloadMax ∧
    ((i ≠ .segDec ∧ ∀ code seq, i ≠ .segEnc code seq) → x.obuf = [])

/-- R25: which registers each operation reads and writes. A register an operation does not write keeps its value;
one it does not read, or reads for the response only, does not influence the registers it leaves; an operation that
reads none returns the same response whatever they hold; an illegal command does neither. -/
def Obligations.RegisterAccessSummary : Prop :=
  (∀ (i : Instr) (s : State) (w c k : Reg), isWindowOp i = false →
    ∃ t u x, exec i s = .next t ∧ exec i { s with window := w, credits := c, streak := k } = .next u ∧
      t = { s with responses := s.responses ++ [x] } ∧ u.responses = t.responses) ∧
  (∀ (s : State) (w c k : Reg), exec .winReset s = exec .winReset { s with window := w, credits := c, streak := k }) ∧
  (∀ s t : State, exec .winTake s = .next t → t.window = s.window ∧ t.streak = s.streak) ∧
  (∀ (s : State) (w k : Reg), ∃ t u, exec .winTake s = .next t ∧
    exec .winTake { s with window := w, streak := k } = .next u ∧ u.credits = t.credits) ∧
  (∀ (n : SeqNum) (s t : State), exec (.winGive n) s = .next t → t.window = s.window ∧ t.streak = s.streak) ∧
  (∀ (n : SeqNum) (s : State) (k : Reg), ∃ t u, exec (.winGive n) s = .next t ∧
    exec (.winGive n) { s with streak := k } = .next u ∧ u.credits = t.credits) ∧
  (∀ s t : State, exec .winAck s = .next t → t.credits = s.credits) ∧
  (∀ (s : State) (c : Reg), ∃ t u, exec .winAck s = .next t ∧
    exec .winAck { s with credits := c } = .next u ∧ u.window = t.window ∧ u.streak = t.streak) ∧
  (∀ (s : State) (c k : Reg), exec .winGap s = exec .winGap { s with credits := c, streak := k }) ∧
  (∀ s t : State, exec .winRead s = .next t →
    t.window = s.window ∧ t.credits = s.credits ∧ t.streak = s.streak) ∧
  (∀ (s : State) (word : Word) (b : Option Buffer) (rest : List Request) (w c k : Reg),
    s.requests = .command word b :: rest → legalByFields word = false →
      ∃ t u, step s = .next t ∧ step { s with window := w, credits := c, streak := k } = .next u ∧
        t.window = s.window ∧ t.credits = s.credits ∧ t.streak = s.streak ∧ u.responses = t.responses)

/-! ## The sequence unit -/

/-- R110: SEQ.INC. -/
def Obligations.SeqIncAddsOneModulo : Prop :=
  CommandSelects 0x3#4 0x30000000#32 0xFFFFFFC0#32 (fun w => .seqInc (w.extractLsb' 0 6)) ∧
  ∀ (seq : SeqNum) (s : State), ∃ r : SeqNum, r.toNat = (seq.toNat + 1) % 64 ∧
    exec (.seqInc seq) s = .next { s with responses := s.responses ++ [⟨responseWord 0x3#4 .ok false 0 0 0 r, []⟩] }

/-- R111: SEQ.DEC, its formula over the integers. -/
def Obligations.SeqDecSubtractsModulo : Prop :=
  CommandSelects 0x4#4 0x40000000#32 0xFFFFF000#32 (fun w => .seqDec (w.extractLsb' 0 6) (w.extractLsb' 6 6)) ∧
  ∀ (seq n : SeqNum) (s : State), ∃ r : SeqNum, (r.toNat : Int) = ((seq.toNat : Int) - n.toNat + 64) % 64 ∧
    exec (.seqDec seq n) s = .next { s with responses := s.responses ++ [⟨responseWord 0x4#4 .ok false 0 0 0 r, []⟩] }

/-- R114: SEQ.IN, its distances over the integers. -/
def Obligations.SeqInTestsOpenInterval : Prop :=
  CommandSelects 0x5#4 0x50000000#32 0xFFEC0000#32
    (fun w => .seqIn (w.getLsbD 20) (w.extractLsb' 0 6) (w.extractLsb' 6 6) (w.extractLsb' 12 6)) ∧
  (∀ (lo hi x : SeqNum) (s : State), exec (.seqIn false lo hi x) s = .next { s with responses := s.responses ++
    [⟨responseWord 0x5#4 .ok
      (decide (0 < ((x.toNat : Int) - lo.toNat) % 64 ∧
        ((x.toNat : Int) - lo.toNat) % 64 < ((hi.toNat : Int) - lo.toNat) % 64)) 0 0 0 0, []⟩] }) ∧
  (∀ (lo hi x : SeqNum) (s : State), exec (.seqIn true lo hi x) s = .next { s with responses := s.responses ++
    [⟨responseWord 0x5#4 .ok (decide (x.toNat < hi.toNat)) 0 0 0 0, []⟩] })

/-- R113: the laws (a) to (g) of increment and decrement. -/
def Obligations.SequenceLaws : Prop :=
  (∀ s n : SeqNum, (increment s).toNat ≤ 63 ∧ (decrement s n).toNat ≤ 63) ∧
  (∀ s : SeqNum, decrement (increment s) 1 = s ∧ increment (decrement s 1) = s) ∧
  (∀ s m n : SeqNum, decrement (decrement s m) n = decrement s (BitVec.ofNat 6 ((m.toNat + n.toNat) % 64))) ∧
  (∀ s n : SeqNum, decrement s 0 = s ∧ decrement s s = 0 ∧ (decrement s n).toNat = (s.toNat + 64 - n.toNat) % 64 ∧
    ((decrement s n).toNat : Int) = ((s.toNat : Int) - n.toNat) % 64) ∧
  (∀ (s : SeqNum) (j : Nat), (increment^[j] s).toNat = (s.toNat + j) % 64 ∧
    decrement (increment^[j] s) (BitVec.ofNat 6 (j % 64)) = s) ∧
  (∀ (s : SeqNum) (j k : Nat), j < 64 → k < 64 → (increment^[j] s = increment^[k] s ↔ j = k)) ∧
  (∀ s : SeqNum, increment^[64] s = s) ∧
  (∀ lo x : SeqNum, increment^[(decrement x lo).toNat] lo = x ∧
    ∀ j, j < (decrement x lo).toNat → increment^[j] lo ≠ x)

/-- R115: with `none` the members are the `x < hi`, the general rule with -1 in place of `lo`; the answer is that of
`lo` = 63 for every `hi` but 63, where `none` has the members 0 to 62 and `lo` = 63 has none. -/
def Obligations.NoneActsAsMinusOne : Prop :=
  (∀ lo hi x : SeqNum, memberFlag true lo hi x = true ↔
    (0 : Int) < (x.toNat : Int) - (-1) ∧ (x.toNat : Int) - (-1) < (hi.toNat : Int) - (-1)) ∧
  (∀ lo hi x : SeqNum, hi ≠ 63#6 → memberFlag true lo hi x = memberFlag false 63#6 hi x) ∧
  (∀ lo x : SeqNum, (memberFlag true lo 63#6 x = true ↔ x.toNat ≤ 62) ∧ memberFlag false 63#6 63#6 x = false)

/-- R116: with `lo` = `hi`, and with `hi` the successor of `lo`, no number is a member. -/
def Obligations.EqualEndsHoldNoMember : Prop :=
  ∀ lo x : SeqNum, memberFlag false lo lo x = false ∧ memberFlag false lo (increment lo) x = false

/-- R118: how many members the interval has, and how many a walk from `lo` up to a member `x` confirms. -/
def Obligations.MembersAreCounted : Prop :=
  (∀ lo hi : SeqNum, ((Finset.univ : Finset (Fin 64)).filter fun x =>
      memberFlag false lo hi (BitVec.ofFin x) = true).card = (decrement hi lo).toNat - 1) ∧
  (∀ lo hi : SeqNum, ((Finset.univ : Finset (Fin 64)).filter fun x =>
      memberFlag true lo hi (BitVec.ofFin x) = true).card = hi.toNat) ∧
  (∀ lo hi x : SeqNum, memberFlag false lo hi x = true →
    (∀ j, 1 ≤ j → j ≤ (decrement x lo).toNat → memberFlag false lo hi (increment^[j] lo) = true) ∧
      increment^[(decrement x lo).toNat] lo = x)

/-! ## The window unit -/

/-- R131: WIN.RESET. -/
def Obligations.WinResetRestoresDefaults : Prop :=
  CommandSelects 0x6#4 0x60000000#32 0xFFFFFFFF#32 (fun _ => .winReset) ∧
  ∀ s : State, exec .winReset s = .next { s with window := 15#6, credits := 15#6, streak := 0#6, responses :=
    s.responses ++ [⟨0x600003CF#32, []⟩] }

/-- R132: WIN.TAKE. -/
def Obligations.WinTakeConsumesOneCredit : Prop :=
  CommandSelects 0x7#4 0x70000000#32 0xFFFFFFFF#32 (fun _ => .winTake) ∧
  (∀ s : State, s.Inv → 0 < s.credits.toNat →
    exec .winTake s = .next { s with credits := s.credits - 1, responses := s.responses ++
      [⟨responseWord 0x7#4 .ok true 0 s.streak (s.credits - 1) s.window, []⟩] }) ∧
  (∀ s : State, s.Inv → s.credits.toNat = 0 →
    exec .winTake s = .next { s with responses := s.responses ++
      [⟨responseWord 0x7#4 .noCredit false 0 s.streak 0 s.window, []⟩] })

/-- R133: WIN.GIVE. -/
def Obligations.WinGiveCapsAtWindow : Prop :=
  CommandSelects 0x8#4 0x80000000#32 0xFFFFFFC0#32 (fun w => .winGive (w.extractLsb' 0 6)) ∧
  ∀ (n : SeqNum) (s : State), s.Inv → ∃ c : Reg, c.toNat = min (s.credits.toNat + n.toNat) s.window.toNat ∧
    exec (.winGive n) s = .next { s with credits := c, responses := s.responses ++
      [⟨responseWord 0x8#4 .ok false 0 s.streak c s.window, []⟩] }

/-- R133: giving `n` credits at once is giving one credit `n` times, with the cap applied each time. -/
def Obligations.GivingAtOnceIsGivingOneByOne : Prop :=
  ∀ (n : SeqNum) (s : State), s.Inv → ∃ t u, exec (.winGive n) s = .next t ∧
    performAll (List.replicate n.toNat winGive1) s = .next u ∧
    t.credits = u.credits ∧ t.window = u.window ∧ t.streak = u.streak

/-- R134: WIN.ACK. -/
def Obligations.WinAckCountsTowardGrowth : Prop :=
  CommandSelects 0x9#4 0x90000000#32 0xFFFFFFFF#32 (fun _ => .winAck) ∧
  (∀ s : State, s.Inv → s.window.toNat < s.streak.toNat + 1 →
    ∃ w : Reg, w.toNat = min (s.window.toNat + 1) 32 ∧
      exec .winAck s = .next { s with window := w, streak := 0#6, responses := s.responses ++
        [⟨responseWord 0x9#4 .ok (decide (s.window.toNat < w.toNat)) 0 0 s.credits w, []⟩] }) ∧
  (∀ s : State, s.Inv → s.streak.toNat + 1 ≤ s.window.toNat →
    exec .winAck s = .next { s with streak := s.streak + 1, responses := s.responses ++
      [⟨responseWord 0x9#4 .ok false 0 (s.streak + 1) s.credits s.window, []⟩] })

/-- R135: WIN.GAP; the clamp never binds. -/
def Obligations.WinGapHalvesWindow : Prop :=
  CommandSelects 0xA#4 0xA0000000#32 0xFFFFFFFF#32 (fun _ => .winGap) ∧
  ∀ s : State, s.Inv → ∃ w : Reg, w.toNat = (s.window.toNat - 1) / 2 + 1 ∧ 1 ≤ w.toNat ∧ w.toNat ≤ 16 ∧
    exec .winGap s = .next { s with window := w, credits := w, streak := 0#6, responses := s.responses ++
      [⟨responseWord 0xA#4 .ok false 0 0 w w, []⟩] }

/-- R136: WIN.READ. -/
def Obligations.WinReadReportsRegisters : Prop :=
  CommandSelects 0xB#4 0xB0000000#32 0xFFFFFFFF#32 (fun _ => .winRead) ∧
  ∀ s : State, s.Inv → exec .winRead s = .next { s with responses := s.responses ++
    [⟨responseWord 0xB#4 .ok false 0 s.streak s.credits s.window, []⟩] }

/-- R71: every operation of the window unit reports the state it leaves. -/
def Obligations.WindowUnitReportsWhatItLeaves : Prop :=
  ∀ (i : Instr) (s : State), isWindowOp i = true → ∃ t x, exec i s = .next t ∧
    t.responses = s.responses ++ [x] ∧ x.obuf = [] ∧ rspCode x.rsp = 0 ∧
    rspR2 x.rsp = t.streak ∧ rspR1 x.rsp = t.credits ∧ rspR0 x.rsp = t.window

/-- R140: WIN.RESET, WIN.GAP and the WIN.ACK that passes the threshold clear the streak; no other operation does. -/
def Obligations.OnlyThreeOperationsClearStreak : Prop :=
  ∀ (i : Instr) (s : State), s.Inv → ∃ t, exec i s = .next t ∧
    ((i = .winReset ∨ i = .winGap ∨ (i = .winAck ∧ s.window.toNat < s.streak.toNat + 1)) → t.streak = 0#6) ∧
    (¬(i = .winReset ∨ i = .winGap ∨ (i = .winAck ∧ s.window.toNat < s.streak.toNat + 1)) →
      s.streak.toNat ≤ t.streak.toNat)

/-- R141: from window `w` and streak 0, `w + 1` WIN.ACK with no GAP between them raise the window to `w + 1`, and no
fewer do; 527 raise it from 1 to 32; WIN.GAP from 32 gives 16, 8, 4, 2, 1, 1. -/
def Obligations.GrowthIsAdditiveShrinkIsHalving : Prop :=
  (∀ s : State, s.Inv → s.window.toNat < 32 → s.streak = 0#6 →
    (∀ j, j ≤ s.window.toNat → ∃ t, performAll (List.replicate j .winAck) s = .next t ∧
      t.window = s.window ∧ t.streak.toNat = j ∧ t.credits = s.credits) ∧
    ∃ t, performAll (List.replicate (s.window.toNat + 1) .winAck) s = .next t ∧
      t.window.toNat = s.window.toNat + 1 ∧ t.streak = 0#6 ∧ t.credits = s.credits) ∧
  (∀ s : State, s.Inv → s.window = 1#6 → s.streak = 0#6 →
    ∃ t, performAll (List.replicate 527 .winAck) s = .next t ∧ t.window = 32#6 ∧ t.streak = 0#6) ∧
  (∀ s : State, s.Inv → s.window = 32#6 → ∀ k w, [32, 16, 8, 4, 2, 1, 1][k]? = some w →
    ∃ t, performAll (List.replicate k .winGap) s = .next t ∧ t.window.toNat = w)
end

