-- ==== Sys2Proof/Laws/Decode.lean ====
section
/-! SUPPORT. The fields of an encoded command word (`30_encoding.md` R66), what the row selection can answer (R67),
and the rejections. -/

namespace Sys2Proof

section
variable (op : OpSelect) (n : Bool) (code : Code) (c b a : SeqNum)

@[simp] theorem cmdOp_commandWord : cmdOp (commandWord op n code c b a) = op := by
  ext i hi
  simp only [cmdOp, commandWord]
  interval_cases i <;> simp

@[simp] theorem cmdReserved_commandWord : cmdReserved (commandWord op n code c b a) = 0 := by
  ext i hi
  simp only [cmdReserved, commandWord]
  interval_cases i <;> simp

@[simp] theorem cmdCode_commandWord : cmdCode (commandWord op n code c b a) = code := by
  ext i hi
  simp only [cmdCode, commandWord]
  interval_cases i <;> simp

@[simp] theorem cmdC_commandWord : cmdC (commandWord op n code c b a) = c := by
  ext i hi
  simp only [cmdC, commandWord]
  interval_cases i <;> simp

@[simp] theorem cmdB_commandWord : cmdB (commandWord op n code c b a) = b := by
  ext i hi
  simp only [cmdB, commandWord]
  interval_cases i <;> simp

@[simp] theorem cmdA_commandWord : cmdA (commandWord op n code c b a) = a := by
  ext i hi
  simp only [cmdA, commandWord]
  interval_cases i <;> simp

@[simp] theorem cmdNone_commandWord : cmdNone (commandWord op n code c b a) = n := by
  simp [cmdNone, commandWord]

end

/-- `op` lies inside every mask: a word that satisfies a row has the row's `op` (R67). -/
theorem cmdOp_of_selects {r : Row} {w : Word} (hr : r ∈ opcodeTable) (h : r.selects w = true) :
    cmdOp w = r.opcode.select := by
  have rows : ∀ r ∈ opcodeTable, cmdOp r.mask = 0xF#4 ∧ cmdOp r.pattern = r.opcode.select := by decide
  obtain ⟨hmask, hpattern⟩ := rows r hr
  have hw : w &&& r.mask = r.pattern := by simpa [Row.selects] using h
  have split : cmdOp (w &&& r.mask) = cmdOp w &&& cmdOp r.mask := by
    ext i hi; simp [cmdOp]
  rw [← hpattern, ← hw, split, hmask]
  ext i hi
  interval_cases i <;> simp

/-- What the row selection answers: a row of the table whose mask and pattern the word satisfies, or none does. -/
theorem selectRow_cases (w : Word) :
    (∃ r, selectRow w = some r ∧ r ∈ opcodeTable ∧ r.selects w = true) ∨
      (selectRow w = none ∧ ∀ r ∈ opcodeTable, r.selects w = false) := by
  cases h : selectRow w with
  | some r => exact .inl ⟨r, rfl, List.mem_of_find?_eq_some h, by
      simpa using List.find?_some (l := opcodeTable) (p := fun r : Row => r.selects w) h⟩
  | none => exact .inr ⟨rfl, fun r hr => by simpa using List.find?_eq_none.1 h r hr⟩

/-- What decoding answers: the operation of a row the word selects with its operands, or a rejection of a word that
selects no row (R77). -/
theorem decode_cases (w : Word) :
    (∃ r ∈ opcodeTable, r.selects w = true ∧ decode w = .ok (r.opcode.withFields w)) ∨
      ((∀ r ∈ opcodeTable, r.selects w = false) ∧ decode w = .error (whyIllegal w)) := by
  obtain ⟨r, h, hr, hs⟩ | ⟨h, hs⟩ := selectRow_cases w
  · exact .inl ⟨r, hr, hs, by simp [decode, h]⟩
  · exact .inr ⟨hs, by simp [decode, h]⟩

@[simp] theorem opcode_withFields (o : Opcode) (w : Word) : (o.withFields w).opcode = o := by
  cases o <;> rfl

/-- The word read from a number of any length, as a number; a number of 32 bits is read as it is (R75; log 17). -/
theorem tableWord_toNat (nbits w : Nat) : (tableWord nbits w).toNat = w % 2 ^ nbits % 2 ^ 32 := by
  simp [tableWord]

end Sys2Proof
end

