-- ==== Sys2Proof/Laws/State.lean ====
section
/-! SUPPORT. One lemma per field per update of State, each true by rfl. -/

namespace Sys2Proof.Machine

/-! `writeUnit` writes the three registers and nothing else (R15). -/

@[simp] theorem State.writeUnit_window (s : State) (w c k : Reg) : (s.writeUnit w c k).window = w := rfl
@[simp] theorem State.writeUnit_credits (s : State) (w c k : Reg) : (s.writeUnit w c k).credits = c := rfl
@[simp] theorem State.writeUnit_streak (s : State) (w c k : Reg) : (s.writeUnit w c k).streak = k := rfl
@[simp] theorem State.writeUnit_ibuf (s : State) (w c k : Reg) : (s.writeUnit w c k).ibuf = s.ibuf := rfl
@[simp] theorem State.writeUnit_requests (s : State) (w c k : Reg) : (s.writeUnit w c k).requests = s.requests := rfl
@[simp] theorem State.writeUnit_responses (s : State) (w c k : Reg) : (s.writeUnit w c k).responses = s.responses := rfl
@[simp] theorem State.writeUnit_payloadMax (s : State) (w c k : Reg) : (s.writeUnit w c k).payloadMax = s.payloadMax := rfl

/-! `answer` adds one response after the earlier ones and changes nothing else (R42). -/

@[simp] theorem State.answer_window (s : State) (r : RspWord) (b : Buffer) : (s.answer r b).window = s.window := rfl
@[simp] theorem State.answer_credits (s : State) (r : RspWord) (b : Buffer) : (s.answer r b).credits = s.credits := rfl
@[simp] theorem State.answer_streak (s : State) (r : RspWord) (b : Buffer) : (s.answer r b).streak = s.streak := rfl
@[simp] theorem State.answer_ibuf (s : State) (r : RspWord) (b : Buffer) : (s.answer r b).ibuf = s.ibuf := rfl
@[simp] theorem State.answer_requests (s : State) (r : RspWord) (b : Buffer) : (s.answer r b).requests = s.requests := rfl
@[simp] theorem State.answer_responses (s : State) (r : RspWord) (b : Buffer) : (s.answer r b).responses = s.responses ++ [⟨r, b⟩] := rfl
@[simp] theorem State.answer_payloadMax (s : State) (r : RspWord) (b : Buffer) : (s.answer r b).payloadMax = s.payloadMax := rfl

/-! `take` sets the waiting requests and IBUF and changes nothing else (R40, R48). -/

@[simp] theorem State.take_window (s : State) (rest : List Request) (b : Option Buffer) : (s.take rest b).window = s.window := rfl
@[simp] theorem State.take_credits (s : State) (rest : List Request) (b : Option Buffer) : (s.take rest b).credits = s.credits := rfl
@[simp] theorem State.take_streak (s : State) (rest : List Request) (b : Option Buffer) : (s.take rest b).streak = s.streak := rfl
@[simp] theorem State.take_ibuf (s : State) (rest : List Request) (b : Option Buffer) : (s.take rest b).ibuf = b := rfl
@[simp] theorem State.take_requests (s : State) (rest : List Request) (b : Option Buffer) : (s.take rest b).requests = rest := rfl
@[simp] theorem State.take_responses (s : State) (rest : List Request) (b : Option Buffer) : (s.take rest b).responses = s.responses := rfl
@[simp] theorem State.take_payloadMax (s : State) (rest : List Request) (b : Option Buffer) : (s.take rest b).payloadMax = s.payloadMax := rfl

/-! `release` drops IBUF and changes nothing else (R40). -/

@[simp] theorem State.release_window (s : State) : (s.release).window = s.window := rfl
@[simp] theorem State.release_credits (s : State) : (s.release).credits = s.credits := rfl
@[simp] theorem State.release_streak (s : State) : (s.release).streak = s.streak := rfl
@[simp] theorem State.release_ibuf (s : State) : (s.release).ibuf = none := rfl
@[simp] theorem State.release_requests (s : State) : (s.release).requests = s.requests := rfl
@[simp] theorem State.release_responses (s : State) : (s.release).responses = s.responses := rfl
@[simp] theorem State.release_payloadMax (s : State) : (s.release).payloadMax = s.payloadMax := rfl

/-! `present` puts one command before the waiting requests and changes nothing else. -/

@[simp] theorem State.present_window (s : State) (w : Word) (b : Option Buffer) : (s.present w b).window = s.window := rfl
@[simp] theorem State.present_credits (s : State) (w : Word) (b : Option Buffer) : (s.present w b).credits = s.credits := rfl
@[simp] theorem State.present_streak (s : State) (w : Word) (b : Option Buffer) : (s.present w b).streak = s.streak := rfl
@[simp] theorem State.present_ibuf (s : State) (w : Word) (b : Option Buffer) : (s.present w b).ibuf = s.ibuf := rfl
@[simp] theorem State.present_requests (s : State) (w : Word) (b : Option Buffer) : (s.present w b).requests = .command w b :: s.requests := rfl
@[simp] theorem State.present_responses (s : State) (w : Word) (b : Option Buffer) : (s.present w b).responses = s.responses := rfl
@[simp] theorem State.present_payloadMax (s : State) (w : Word) (b : Option Buffer) : (s.present w b).payloadMax = s.payloadMax := rfl

/-! `resetUnit` leaves `(15, 15, 0)` and changes nothing else (R24). -/

@[simp] theorem State.resetUnit_window (s : State) : (s.resetUnit).window = 15#6 := rfl
@[simp] theorem State.resetUnit_credits (s : State) : (s.resetUnit).credits = 15#6 := rfl
@[simp] theorem State.resetUnit_streak (s : State) : (s.resetUnit).streak = 0#6 := rfl
@[simp] theorem State.resetUnit_ibuf (s : State) : (s.resetUnit).ibuf = s.ibuf := rfl
@[simp] theorem State.resetUnit_requests (s : State) : (s.resetUnit).requests = s.requests := rfl
@[simp] theorem State.resetUnit_responses (s : State) : (s.resetUnit).responses = s.responses := rfl
@[simp] theorem State.resetUnit_payloadMax (s : State) : (s.resetUnit).payloadMax = s.payloadMax := rfl

end Sys2Proof.Machine
end

