-- ==== Sys2Proof/Laws/Ops.lean ====
section
/-! SUPPORT. One lemma per shared operation that says what it can do (`30_encoding.md` R70, `60_exceptions.md` R191,
R192, `41_sequence_space.md`, `42_window.md`). -/

namespace Sys2Proof.Machine

/-! ## The response word -/

section
variable (op : OpSelect) (st : Status) (flag : Bool) (code : Code) (r2 r1 r0 : Reg)

@[simp] theorem rspOp_responseWord : rspOp (responseWord op st flag code r2 r1 r0) = op := by
  ext i hi
  simp only [rspOp, responseWord]
  interval_cases i <;> simp

@[simp] theorem rspStatus_responseWord : rspStatus (responseWord op st flag code r2 r1 r0) = st.code := by
  ext i hi
  simp only [rspStatus, responseWord]
  interval_cases i <;> simp

@[simp] theorem rspReserved_responseWord : rspReserved (responseWord op st flag code r2 r1 r0) = 0 := by
  ext i hi
  simp only [rspReserved, responseWord]
  interval_cases i <;> simp

@[simp] theorem rspCode_responseWord : rspCode (responseWord op st flag code r2 r1 r0) = code := by
  ext i hi
  simp only [rspCode, responseWord]
  interval_cases i <;> simp

@[simp] theorem rspR2_responseWord : rspR2 (responseWord op st flag code r2 r1 r0) = r2 := by
  ext i hi
  simp only [rspR2, responseWord]
  interval_cases i <;> simp

@[simp] theorem rspR1_responseWord : rspR1 (responseWord op st flag code r2 r1 r0) = r1 := by
  ext i hi
  simp only [rspR1, responseWord]
  interval_cases i <;> simp

@[simp] theorem rspR0_responseWord : rspR0 (responseWord op st flag code r2 r1 r0) = r0 := by
  ext i hi
  simp only [rspR0, responseWord]
  interval_cases i <;> simp

@[simp] theorem rspFlag_responseWord : rspFlag (responseWord op st flag code r2 r1 r0) = flag := by
  simp [rspFlag, responseWord]

end

theorem Status.code_injective {st st' : Status} (h : st.code = st'.code) : st = st' := by
  cases st <;> cases st' <;> first | rfl | exact absurd h (by decide)

/-! ## Raising a status and reporting the unit -/

/-- Raising a status answers once, with `op`, the status, `flag` 0 and an empty OBUF, and changes nothing else (R192). -/
theorem raise_spec (op : OpSelect) (st : Status) (s : State) :
    ∃ rsp, raise op st s = s.answer rsp [] ∧ rspOp rsp = op ∧ rspStatus rsp = st.code ∧ rspFlag rsp = false ∧
      rspReserved rsp = 0 := by
  cases st <;> exact ⟨_, rfl, by simp⟩

/-- Reporting the unit answers once, with status OK and the registers as they stand, and changes nothing else (R71). -/
theorem reportUnit_spec (op : OpSelect) (flag : Bool) (s : State) :
    ∃ rsp, reportUnit op flag s = s.answer rsp [] ∧ rspOp rsp = op ∧ rspStatus rsp = 0 ∧ rspFlag rsp = flag ∧
      rspReserved rsp = 0 ∧ rspCode rsp = 0 ∧ rspR2 rsp = s.streak ∧ rspR1 rsp = s.credits ∧ rspR0 rsp = s.window :=
  ⟨_, rfl, by simp [Status.code]⟩

/-! ## The port -/

theorem fetch_of_nil {s : State} (h : s.requests = []) : fetch s = none := by simp [fetch, h]

theorem fetch_of_cons {s : State} {r : Request} {rest : List Request} (h : s.requests = r :: rest) :
    fetch s = some (r, rest) := by simp [fetch, h]

@[simp] theorem conclude_next (t : State) : conclude (.next t) = .next t.release := rfl

/-- An operation's step ends in a next state exactly when the operation does. -/
theorem conclude_eq_next {r : Result} {t : State} (h : conclude r = .next t) :
    ∃ u, r = .next u ∧ t = u.release := by
  cases r with
  | next u => exact ⟨u, rfl, by simpa [conclude] using h.symm⟩
  | fault f => cases f
  | refused f => simp [conclude] at h

/-! ## Operands -/

/-! The bounds of the named widths as literals, for `omega` (R9). -/

theorem word_lt (w : Word) : w.toNat < 2 ^ 32 := w.isLt
theorem rspWord_lt (r : RspWord) : r.toNat < 2 ^ 32 := r.isLt
theorem seqNum_lt (n : SeqNum) : n.toNat < 64 := n.isLt
theorem code_lt (code : Code) : code.toNat < 4 := code.isLt
theorem reg_lt (r : Reg) : r.toNat < 64 := r.isLt

theorem seqNum_toNat_ofNat (x : Nat) : (BitVec.ofNat Config.seqBits x).toNat = x % 64 := rfl
theorem reg_toNat_ofNat (x : Nat) : (BitVec.ofNat Config.regBits x).toNat = x % 64 := rfl
theorem seqNum_toNat_add (x y : SeqNum) : (x + y).toNat = (x.toNat + y.toNat) % 64 := rfl
theorem seqNum_toNat_sub (x y : SeqNum) : (x - y).toNat = (64 - y.toNat + x.toNat) % 64 := rfl

/-- What the codec operations read when the host gives a buffer (R40). -/
@[simp] theorem payloadOf_some (code : Code) (seq : SeqNum) (b : Buffer) : payloadOf code seq (some b) = b := rfl
@[simp] theorem frameOf_some (b : Buffer) : frameOf (some b) = b := rfl


/-- When a buffer is too long (R53). -/
theorem tooLong_eq_true {max : Option Nat} {extra len : Nat} :
    tooLong max extra len = true ↔ ∃ m, max = some m ∧ m + extra < len := by
  cases max <;> simp [tooLong]

/-- When a buffer is not too long (R53). -/
theorem tooLong_eq_false {max : Option Nat} {extra len : Nat} :
    tooLong max extra len = false ↔ ∀ m, max = some m → len ≤ m + extra := by
  cases max <;> simp [tooLong]

/-! ## Sequence numbers -/

/-- Increment as a number (R110). -/
theorem increment_toNat (seq : SeqNum) : (increment seq).toNat = (seq.toNat + 1) % 64 := by
  rw [increment, seqNum_toNat_ofNat]
  simp only [Config.seqMod, Config.seqBits]
  omega

/-- Decrement as a number (R111). -/
theorem decrement_toNat (seq n : SeqNum) : (decrement seq n).toNat = (seq.toNat + 64 - n.toNat) % 64 := by
  rw [decrement, seqNum_toNat_ofNat]
  simp only [Config.seqMod, Config.seqBits]
  omega

theorem increment_eq_add (seq : SeqNum) : increment seq = seq + 1 := by
  apply BitVec.eq_of_toNat_eq
  simp [increment, BitVec.toNat_add]

theorem decrement_eq_sub (seq n : SeqNum) : decrement seq n = seq - n := by
  apply BitVec.eq_of_toNat_eq
  rw [decrement_toNat, seqNum_toNat_sub]
  have := seqNum_lt n
  congr 1
  omega

theorem forwardDistance_eq (lo x : SeqNum) : forwardDistance lo x = (x - lo).toNat := by
  have := seqNum_lt lo
  simp only [forwardDistance, Config.seqMod, Config.seqBits, BitVec.toNat_sub]
  omega

/-- Membership with a lower end: both distances forward from `lo` (R114). -/
theorem memberFlag_of_lo (lo hi x : SeqNum) :
    memberFlag false lo hi x = true ↔ 0 < (x - lo).toNat ∧ (x - lo).toNat < (hi - lo).toNat := by
  simp [memberFlag, forwardDistance_eq]

/-- Membership with no lower end (R115). -/
theorem memberFlag_of_none (lo hi x : SeqNum) : memberFlag true lo hi x = true ↔ x.toNat < hi.toNat := by
  simp [memberFlag]

/-! ## The window laws -/

theorem creditsGiven_toNat (credits window : Reg) (n : SeqNum) :
    (creditsGiven credits window n).toNat = min (credits.toNat + n.toNat) window.toNat := by
  have := reg_lt window
  simp only [creditsGiven, Config.regBits, BitVec.toNat_ofNat]
  omega

theorem windowGrown_toNat (window : Reg) : (windowGrown window).toNat = min (window.toNat + 1) 32 := by
  have := reg_lt window
  simp only [windowGrown, Config.windowMax, Config.regBits, BitVec.toNat_ofNat]
  omega

theorem windowShrunk_toNat (window : Reg) :
    (windowShrunk window).toNat = (window.toNat - 1) / 2 + 1 := by
  have := reg_lt window
  simp only [windowShrunk, clamp, Config.regBits, Config.windowMin, Config.windowMax, BitVec.toNat_ofNat]
  omega

theorem streakPasses_iff (streak window : Reg) :
    streakPasses streak window = true ↔ window.toNat < streak.toNat + 1 := by
  simp [streakPasses]

theorem grantFlag_iff (credits : Reg) : grantFlag credits = true ↔ 0 < credits.toNat := by
  simp [grantFlag]

end Sys2Proof.Machine
end

