-- ==== Sys2Proof/Laws/Exec.lean ====
section
/-! SUPPORT. What an operation and a step can answer, said once: every meaning writes the three registers and answers,
and nothing else (`20_memory.md` R42, R48; `30_encoding.md` R70). -/

namespace Sys2Proof.Machine

/-- What an operation can do: it ends in a next state that is the one before with the three registers written and one
response added; the response repeats the operation's `op` and its bits 23:21 are zero. -/
theorem exec_answers (i : Instr) (s : State) :
    ∃ w c k rsp obuf, exec i s = .next ((s.writeUnit w c k).answer rsp obuf) ∧
      rspOp rsp = i.opcode.select ∧ rspReserved rsp = 0 := by
  have unchanged : ∀ rsp obuf, s.answer rsp obuf = (s.writeUnit s.window s.credits s.streak).answer rsp obuf :=
    fun _ _ => rfl
  have raised : ∀ op st, ∃ w c k rsp obuf, Host.Outcome.next (φ := Fault) (ρ := Refusal) (raise op st s) =
      .next ((s.writeUnit w c k).answer rsp obuf) ∧ rspOp rsp = op ∧ rspReserved rsp = 0 := by
    intro op st
    obtain ⟨rsp, h, hop, -, -, hres⟩ := raise_spec op st s
    exact ⟨_, _, _, rsp, [], by rw [h, unchanged], hop, hres⟩
  have plain : ∀ op flag code r2 r1 r0 obuf, ∃ w c k rsp obuf', Host.Outcome.next (φ := Fault) (ρ := Refusal)
      (s.answer (responseWord op .ok flag code r2 r1 r0) obuf) = .next ((s.writeUnit w c k).answer rsp obuf') ∧
      rspOp rsp = op ∧ rspReserved rsp = 0 :=
    fun op flag code r2 r1 r0 obuf => ⟨_, _, _, _, _, congrArg _ (unchanged _ _), by simp, by simp⟩
  have reported : ∀ op flag w c k, ∃ w' c' k' rsp obuf, Host.Outcome.next (φ := Fault) (ρ := Refusal)
      (reportUnit op flag (s.writeUnit w c k)) = .next ((s.writeUnit w' c' k').answer rsp obuf) ∧
      rspOp rsp = op ∧ rspReserved rsp = 0 :=
    fun op flag w c k => ⟨_, _, _, _, _, rfl, by simp, by simp⟩
  cases i with
  | segEnc code seq => simp only [exec, execSegEnc]; split <;> [exact raised _ _; exact plain _ _ _ _ _ _ _]
  | segDec =>
    simp only [exec, execSegDec]
    split
    · exact raised _ _
    · split <;> [exact raised _ _; exact plain _ _ _ _ _ _ _]
  | seqInc seq => exact plain _ _ _ _ _ _ _
  | seqDec seq n => exact plain _ _ _ _ _ _ _
  | seqIn noLo lo hi x => exact plain _ _ _ _ _ _ _
  | winReset => exact reported _ _ _ _ _
  | winTake => simp only [exec, execWinTake]; split <;> [exact reported _ _ _ _ _; exact raised _ _]
  | winGive n => exact reported _ _ _ _ _
  | winAck => simp only [exec, execWinAck]; split <;> exact reported _ _ _ _ _
  | winGap => exact reported _ _ _ _ _
  | winRead => exact reported _ _ s.window s.credits s.streak

/-- What a step can do: idle with no request; on hardware reset write the registers; on a command that decodes,
perform the operation and drop IBUF; on any other command, answer ILLEGAL_CMD and drop IBUF. -/
theorem step_cases (s : State) :
    (s.requests = [] ∧ step s = .next s) ∨
    (∃ rest, s.requests = .hardwareReset :: rest ∧ step s = .next (s.take rest none).resetUnit) ∨
    (∃ w b rest i t, s.requests = .command w b :: rest ∧ decode w = .ok i ∧ exec i (s.take rest b) = .next t ∧
      step s = .next t.release) ∨
    (∃ w b rest e, s.requests = .command w b :: rest ∧ decode w = .error e ∧
      step s = .next (rejectCommand w (s.take rest b)).release) := by
  cases h : s.requests with
  | nil => exact .inl ⟨rfl, by simp [step, fetch, h]⟩
  | cons r rest =>
    cases r with
    | hardwareReset => exact .inr (.inl ⟨rest, rfl, by simp [step, fetch, h]⟩)
    | command w b =>
      cases hd : decode w with
      | ok i =>
        obtain ⟨_, _, _, _, _, ht, -⟩ := exec_answers i (s.take rest b)
        exact .inr (.inr (.inl ⟨w, b, rest, i, _, rfl, hd, ht, by simp [step, fetch, h, hd, ht]⟩))
      | error e => exact .inr (.inr (.inr ⟨w, b, rest, e, rfl, hd, by simp [step, fetch, h, hd]⟩))

end Sys2Proof.Machine
end

