-- ==== Sys2Proof/Laws/PerInstr.lean ====
section
/-! SUPPORT. Statements made once per constructor of Instr (LAWS.json). -/

/-- The command word of an instruction selects the instruction's own row of the table (`30_encoding.md` R66, R67). -/
def Sys2Proof.Laws.EncodesOwnRow.Statement (i : Sys2Proof.Instr) : Prop :=
  ∃ r ∈ Sys2Proof.opcodeTable, r.opcode = i.opcode ∧ r.selects (Sys2Proof.encode i) = true

namespace Sys2Proof.Laws.EncodesOwnRow

/-- A row selects a word when the two agree bit by bit under the mask. -/
theorem selects_of_bits {r : Row} {w : Word} (h : ∀ k, k < 32 → (w.getLsbD k && r.mask.getLsbD k) = r.pattern.getLsbD k) :
    r.selects w = true := by
  have : w &&& r.mask = r.pattern := by 
    ext k hk
    simpa [BitVec.getLsbD_eq_getElem hk] using h k hk
  simp [Row.selects, this]

theorem segEnc (code : Code) (seq : SeqNum) : Statement (.segEnc code seq) := by
  refine ⟨⟨.segEnc, 0x10000000, 0xFFF3FFC0⟩, by decide, rfl, selects_of_bits fun k hk => ?_⟩
  simp only [encode, commandWord, Instr.opcode, Opcode.select]
  interval_cases k <;> simp

theorem segDec : Statement .segDec := by
  exact ⟨opcodeTable[1], by decide, by decide, by decide⟩

theorem seqInc (seq : SeqNum) : Statement (.seqInc seq) := by
  refine ⟨⟨.seqInc, 0x30000000, 0xFFFFFFC0⟩, by decide, rfl, selects_of_bits fun k hk => ?_⟩
  simp only [encode, commandWord, Instr.opcode, Opcode.select]
  interval_cases k <;> simp

theorem seqDec (seq : SeqNum) (n : SeqNum) : Statement (.seqDec seq n) := by
  refine ⟨⟨.seqDec, 0x40000000, 0xFFFFF000⟩, by decide, rfl, selects_of_bits fun k hk => ?_⟩
  simp only [encode, commandWord, Instr.opcode, Opcode.select]
  interval_cases k <;> simp

theorem seqIn (noLo : Bool) (lo : SeqNum) (hi : SeqNum) (x : SeqNum) : Statement (.seqIn noLo lo hi x) := by
  refine ⟨⟨.seqIn, 0x50000000, 0xFFEC0000⟩, by decide, rfl, selects_of_bits fun k hk => ?_⟩
  simp only [encode, commandWord, Instr.opcode, Opcode.select]
  interval_cases k <;> simp

theorem winReset : Statement .winReset := by
  exact ⟨opcodeTable[5], by decide, by decide, by decide⟩

theorem winTake : Statement .winTake := by
  exact ⟨opcodeTable[6], by decide, by decide, by decide⟩

theorem winGive (n : SeqNum) : Statement (.winGive n) := by
  refine ⟨⟨.winGive, 0x80000000, 0xFFFFFFC0⟩, by decide, rfl, selects_of_bits fun k hk => ?_⟩
  simp only [encode, commandWord, Instr.opcode, Opcode.select]
  interval_cases k <;> simp

theorem winAck : Statement .winAck := by
  exact ⟨opcodeTable[8], by decide, by decide, by decide⟩

theorem winGap : Statement .winGap := by
  exact ⟨opcodeTable[9], by decide, by decide, by decide⟩

theorem winRead : Statement .winRead := by
  exact ⟨opcodeTable[10], by decide, by decide, by decide⟩

end Sys2Proof.Laws.EncodesOwnRow
end

