-- ==== Sys2Proof/Tests/Slice0.lean ====
section
/-! SUPPORT. Tests on small states, their expected results written out from spec/ (the encodings of
`30_encoding.md` R66, R67, R73 and the vectors of `95_test_vectors.md`), and a witness for the hypotheses of every
statement of Certificates/Slice0/Obligations.lean. -/

namespace Sys2Proof.Tests

open Sys2Proof Sys2Proof.Machine

/-! ## Helpers -/

/-- A state with the given registers, PAYLOAD_MAX unbounded, nothing else. -/
def unit (w c k : Reg) : State := { State.reset with window := w, credits := c, streak := k }

/-- A state with the given registers and one command presented. -/
def given (w c k : Reg) (cmd : Word) (b : Option Buffer) : State := { unit w c k with requests := [.command cmd b] }

/-- The responses and registers after one step, if the step answers a next state. -/
def after (s : State) : Option (List Response × Reg × Reg × Reg) :=
  match step s with
  | .next t => some (t.responses, t.window, t.credits, t.streak)
  | .fault _ => none
  | .refused _ => none

/-- Whether a result is a next state. -/
def isNext : Result → Bool
  | .next _ => true
  | .fault _ => false
  | .refused _ => false

theorem exists_next {r : Result} (h : isNext r = true) : ∃ t, r = .next t := by
  cases r <;> first | exact ⟨_, rfl⟩ | cases h

/-! ## Decoding: words written out bit by bit from R66 and R67 (op, zero, none, code, c, b, a) -/

def word (op : BitVec 4) (zero : BitVec 7) (none : BitVec 1) (code : BitVec 2) (c b a : BitVec 6) : Word :=
  op ++ zero ++ none ++ code ++ c ++ b ++ a

/-- The word layout of R66 against a command word of R73's table (SEQ.IN 60, 2, 60 of `95_test_vectors.md` 2.5). -/
theorem test_word_layout : word 0b0101 0b0000000 0b0 0b00 0b111100 0b000010 0b111100 = 0x5003C0BC := by decide

theorem test_decode_segEnc : (decode (word 0b0001 0b0000000 0b0 0b10 0b000000 0b000000 0b000101)).toOption =
    some (.segEnc 2 5) := by decide
theorem test_decode_segDec : (decode (word 0b0010 0b0000000 0b0 0b00 0b000000 0b000000 0b000000)).toOption =
    some .segDec := by decide
theorem test_decode_seqInc : (decode (word 0b0011 0b0000000 0b0 0b00 0b000000 0b000000 0b111110)).toOption =
    some (.seqInc 62) := by decide
theorem test_decode_seqDec : (decode (word 0b0100 0b0000000 0b0 0b00 0b000000 0b100000 0b001010)).toOption =
    some (.seqDec 10 32) := by decide
theorem test_decode_seqIn : (decode (word 0b0101 0b0000000 0b0 0b00 0b000100 0b000101 0b000001)).toOption =
    some (.seqIn false 1 5 4) := by decide
theorem test_decode_seqIn_none : (decode (word 0b0101 0b0000000 0b1 0b00 0b000010 0b000011 0b000000)).toOption =
    some (.seqIn true 0 3 2) := by decide
theorem test_decode_winReset : (decode (word 0b0110 0b0000000 0b0 0b00 0b000000 0b000000 0b000000)).toOption =
    some .winReset := by decide
theorem test_decode_winTake : (decode (word 0b0111 0b0000000 0b0 0b00 0b000000 0b000000 0b000000)).toOption =
    some .winTake := by decide
theorem test_decode_winGive : (decode (word 0b1000 0b0000000 0b0 0b00 0b000000 0b000000 0b111111)).toOption =
    some (.winGive 63) := by decide
theorem test_decode_winAck : (decode (word 0b1001 0b0000000 0b0 0b00 0b000000 0b000000 0b000000)).toOption =
    some .winAck := by decide
theorem test_decode_winGap : (decode (word 0b1010 0b0000000 0b0 0b00 0b000000 0b000000 0b000000)).toOption =
    some .winGap := by decide
theorem test_decode_winRead : (decode (word 0b1011 0b0000000 0b0 0b00 0b000000 0b000000 0b000000)).toOption =
    some .winRead := by decide

/-- The pseudo-operations expand to these words (R73, R74). -/
theorem test_encode_pseudo : encode (seqPrev 0) = 0x40000040 ∧ encode winGive1 = 0x80000001 := by decide

/-- Rejections: the all-zero word (V-W33), reserved bit 27 (V-D14), SEG.ENC with `b` = 1 (V-E10). -/
theorem test_reject_names : [0x00000000#32, 0x28000000#32, 0x10000040#32].map
    (fun w => match decode w with | .ok _ => none | .error e => some e) =
      [some .reservedOp, some .reservedBit, some .unusedField] := by decide

/-- The table's bit numbering: one word of 32 bits (R75). -/
theorem test_decodeTableWord : decodeTableWord 32 0x80000003 = some (.winGive 3) ∧
    decodeTableWord 32 0xF0000000 = none := by decide

/-- The very next step after presenting WIN.GAP at reset runs it: `(8, 8, 0)` (V-W22). -/
theorem test_withFetchWord_runs : after (State.reset.withFetchWord 32 0xA0000000) =
    some ([⟨0xA0000208, []⟩], 8, 8, 0) := by decide

/-- A codec command presented at reset comes with a zero-length buffer: SYN 1 gives the frame `[0x41]` (V-E2). -/
theorem test_withFetchWord_segEnc : after (State.reset.withFetchWord 32 0x10040001) =
    some ([⟨0x10000000, [0x41]⟩], 15, 15, 0) := by decide

/-! ## The parameters at their defaults (R9) -/

theorem test_parameters : [Config.seqBits, Config.seqMod, Config.sequenceNumberMax, Config.codeBits, Config.windowMax,
    Config.windowMin, Config.windowDefault, Config.headerBytes, Config.cmdBits, Config.rspBits, Config.regBits] =
      [6, 64, 63, 2, 32, 1, 15, 1, 32, 32, 6] := by decide

/-! ## Well-formedness: an ill-formed term for each check -/

/-- `SEQ.IN none` has no place for `lo` in the assembler (R73). -/
theorem test_assemblerForm_refuses : (Instr.seqIn true 5 3 2).assemblerForm = false ∧
    (Instr.seqIn true 0 3 2).assemblerForm = true := by decide
/-- SEQUENCE_NUMBER_MAX is 63, and 64 is out of range (R9, R117). -/
theorem test_inSequenceRange_refuses : inSequenceRange 64 = false ∧ inSequenceRange 63 = true := by decide
/-- A buffer of length 0 is not a frame (R61). -/
theorem test_isFrame_refuses : isFrame [] = false ∧ isFrame [0x00] = true := by decide
/-- Empty DATA, SYN with a payload, RST with a payload, code 3 (R62). -/
theorem test_clientForm_refuses : [Segment.mk 0 2 [], ⟨1, 1, [0x09]⟩, ⟨2, 0, [0x01]⟩, ⟨3, 63, []⟩].map
    Segment.clientForm = [false, false, false, false] ∧ (Segment.mk 0 0 [0x01, 0x02]).clientForm = true := by decide

/-! ## One step: the vectors of `95_test_vectors.md` part 2 (id in each name) -/

theorem test_segEnc_V_E8 : after (given 15 15 0 0x10040001 (some [0x09])) =
    some ([⟨0x10000000, [0x41, 0x09]⟩], 15, 15, 0) := by decide
theorem test_segEnc_length_V_L : after { given 15 15 0 0x10000000 (some [1, 2, 3, 4, 5]) with payloadMax := some 4 } =
    some ([⟨0x14000000, []⟩], 15, 15, 0) := by decide
theorem test_segDec_V_D5 : after (given 15 15 0 0x20000000 (some [0x3F, 0xAA])) =
    some ([⟨0x2010003F, [0xAA]⟩], 15, 15, 0) := by decide
theorem test_segDec_V_D11 : after (given 15 15 0 0x20000000 (some [])) = some ([⟨0x22000000, []⟩], 15, 15, 0) := by decide
theorem test_seqInc_wraps : after (given 15 15 0 0x3000003F none) = some ([⟨0x30000000, []⟩], 15, 15, 0) := by decide
theorem test_seqDec_wraps : after (given 15 15 0 0x40000143 none) = some ([⟨0x4000003E, []⟩], 15, 15, 0) := by decide
theorem test_seqIn_across_wrap : after (given 15 15 0 0x500010BC none) =
    some ([⟨0x50100000, []⟩], 15, 15, 0) := by decide
theorem test_seqIn_none_at_63 : after (given 15 15 0 0x5013EFC0 none) =
    some ([⟨0x50100000, []⟩], 15, 15, 0) := by decide
theorem test_winReset_V_W1 : after (given 8 3 5 0x60000000 none) = some ([⟨0x600003CF, []⟩], 15, 15, 0) := by decide
theorem test_winTake_V_W3 : after (given 15 1 0 0x70000000 none) = some ([⟨0x7010000F, []⟩], 15, 0, 0) := by decide
theorem test_winTake_V_W4 : after (given 15 0 0 0x70000000 none) = some ([⟨0x7300000F, []⟩], 15, 0, 0) := by decide
theorem test_winGive_V_W11 : after (given 8 0 0 0x8000003F none) = some ([⟨0x80000208, []⟩], 8, 8, 0) := by decide
theorem test_winGive_V_W7 : after (given 15 12 0 0x80000001 none) = some ([⟨0x8000034F, []⟩], 15, 13, 0) := by decide
theorem test_winAck_V_W17 : after (given 31 31 31 0x90000000 none) = some ([⟨0x901007E0, []⟩], 32, 31, 0) := by decide
theorem test_winAck_V_W19 : after (given 32 10 32 0x90000000 none) = some ([⟨0x900002A0, []⟩], 32, 10, 0) := by decide
theorem test_winGap_V_W24 :
    after (given 16 16 0 0xA0000000 none) = some ([⟨0xA0000208, []⟩], 8, 8, 0) := by decide
theorem test_winGap_V_W29 : after (given 1 0 0 0xA0000000 none) = some ([⟨0xA0000041, []⟩], 1, 1, 0) := by decide
theorem test_winRead_V_W30 : after (given 15 15 1 0xB0000000 none) = some ([⟨0xB00013CF, []⟩], 15, 15, 1) := by decide
/-- V-W32: WIN.RESET with `a` ≠ 0 does not reset. -/
theorem test_illegal_V_W32 : after (given 8 3 5 0x60000001 none) = some ([⟨0x61000000, []⟩], 8, 3, 5) := by decide
/-- R210: hardware reset answers nothing. -/
theorem test_hardware_reset : after { unit 8 3 5 with requests := [.hardwareReset] } = some ([], 15, 15, 0) := by
  decide

/-! ## Witnesses: a concrete state and operands that meet the hypotheses of each statement -/

theorem witness_StepKeepsInvariant : (given 32 32 32 0x90000000 none).Inv ∧
    ∃ t, step (given 32 32 32 0x90000000 none) = .next t := ⟨by decide, exists_next (by decide)⟩

theorem witness_OperationsKeepInvariant : (unit 1 0 1).Inv ∧ (unit 32 32 32).Inv ∧
    0 < (unit 32 32 32).credits.toNat ∧ (unit 1 0 1).credits.toNat = 0 := by decide

theorem witness_NoBufferOutlivesItsOperation : (given 15 15 0 0x20000000 (some [0x80])).ibuf = none ∧
    ∃ t, step (given 15 15 0 0x20000000 (some [0x80])) = .next t := ⟨rfl, exists_next (by decide)⟩

/-- The first clause; the other two conclude stops that no operation makes (R193). -/
theorem witness_StepRunsDecodedCommand : (given 15 15 0 0x70000000 none).requests = .command 0x70000000 none :: [] ∧
    decode 0x70000000 = .ok .winTake ∧
      ∃ t, exec .winTake { given 15 15 0 0x70000000 none with requests := [], ibuf := none } = .next t :=
  ⟨rfl, rfl, exists_next (by decide)⟩

theorem witness_IdleWithoutRequest : (unit 15 15 0).requests = [] := rfl

theorem witness_HardwareResetActsAsWinReset :
    ({ unit 8 3 5 with requests := [.hardwareReset] } : State).requests = .hardwareReset :: [] := rfl

/-- Both kinds of request. -/
theorem witness_RequestsTakenInOrder : (given 15 15 0 0xF0000000 none).requests = .command 0xF0000000 none :: [] ∧
    ({ unit 8 3 5 with requests := [.hardwareReset] } : State).requests = .hardwareReset :: [] := ⟨rfl, rfl⟩

theorem witness_EveryCommandIsAnswered :
    ({ unit 1 0 1 with requests := [.command 0x20000000 (some []), .command 0 none] } : State).requests =
      [((0x20000000 : Word), some ([] : Buffer)), (0, none)].map (fun c => Request.command c.1 c.2) ∧
    ({ unit 1 0 1 with requests := [.command 0x20000000 (some []), .command 0 none] } : State).Inv := by decide

/-- EveryResponseHasTheFormat, FailingCommandHasNoEffect: a presented command. -/
theorem witness_presented_command : (given 15 0 0 0x70000000 none).requests = .command 0x70000000 none :: [] := rfl

/-- One command for each outcome of the chain of checks: illegal, too long by one (both operations), empty, no
credit, performed; a legal codec command with its buffer, and commands that need none. -/
theorem witness_FirstFailingCheckDecidesStatus :
    legalByFields 0x20000001 = false ∧
    (legalByFields 0x10000000 = true ∧ overLength (some 0) (cmdOp 0x10000000) [0x07#8].length = true) ∧
    (legalByFields 0x20000000 = true ∧ overLength (some 0) (cmdOp 0x20000000) [0x07#8, 0x08#8].length = true) ∧
    (overLength (some 0) (cmdOp 0x20000000) [0x07#8].length = false ∧ cmdOp 0x20000000 = 0x2#4) ∧
    (cmdOp 0x70000000 = 0x7#4 ∧ takesBuffer 0x70000000 = false ∧ (unit 15 0 0).credits.toNat = 0) ∧
    (given 15 15 0 0x20000000 (some [])).requests = .command 0x20000000 (some []) :: [] := by decide

theorem witness_OutcomeDependsOnInputsAlone :
    ({ unit 15 15 0 with responses := [⟨0x600003CF, []⟩] } : State).window = (unit 15 15 0).window ∧
    ({ unit 15 15 0 with responses := [⟨0x600003CF, []⟩] } : State).credits = (unit 15 15 0).credits ∧
    ({ unit 15 15 0 with responses := [⟨0x600003CF, []⟩] } : State).streak = (unit 15 15 0).streak ∧
    ({ unit 15 15 0 with responses := [⟨0x600003CF, []⟩] } : State).ibuf = (unit 15 15 0).ibuf ∧
    ({ unit 15 15 0 with responses := [⟨0x600003CF, []⟩] } : State).payloadMax = (unit 15 15 0).payloadMax ∧
    ({ unit 15 15 0 with responses := [⟨0x600003CF, []⟩] } : State) ≠ unit 15 15 0 := by decide

theorem witness_EncodeOfDecodeIsIdentity : decode 0x5013FFFF = .ok (.seqIn true 63 63 63) := rfl

theorem witness_TableRowsAreDisjoint : Row.mk .winGive 0x80000000 0xFFFFFFC0 ∈ opcodeTable ∧
    0x8000003F#32 &&& 0xFFFFFFC0 = 0x80000000 := by decide

/-- Both clauses: an illegal word presented; `op` 0, `op` 0xC, a reserved bit. -/
theorem witness_IllegalCommandHasNoEffect : legalByFields 0xC0000000 = false ∧ cmdOp 0x00000001 = 0x0#4 ∧
    0xC#4 ≤ cmdOp 0xC0000000 ∧ cmdReserved 0x60200000 ≠ 0#7 := by decide

/-- A state with a buffer in IBUF and a value of PAYLOAD_MAX. -/
def holding (b : Option Buffer) (max : Option Nat) : State := { unit 15 15 0 with ibuf := b, payloadMax := max }

/-- Within the bound at its limit, and one past it. -/
theorem witness_SegEncPrependsHeader :
    ((holding (some [0x01]) (some 1)).ibuf = some [0x01] ∧
      ∀ m, (holding (some [0x01]) (some 1)).payloadMax = some m → [(0x01 : Byte)].length ≤ m) ∧
    (holding (some [0x01]) (some 0)).ibuf = some [0x01] ∧ (holding (some [0x01]) (some 0)).payloadMax = some 0 ∧
      0 < [(0x01 : Byte)].length := by
  refine ⟨⟨rfl, fun m h => ?_⟩, rfl, rfl, by decide⟩
  cases h; decide

/-- A frame at the limit, the empty buffer, and a frame one past the limit. -/
theorem witness_SegDecSplitsHeader :
    ((holding (some [0xFF, 0x01]) (some 1)).ibuf = some (0xFF :: [0x01]) ∧
      ∀ m, (holding (some [0xFF, 0x01]) (some 1)).payloadMax = some m → [(0x01 : Byte)].length + 1 ≤ m + 1) ∧
    (holding (some []) (some 0)).ibuf = some [] ∧
    (holding (some [0xFF, 0x01]) (some 0)).payloadMax = some 0 ∧ 0 + 1 < [(0xFF : Byte), 0x01].length := by
  refine ⟨⟨rfl, fun m h => ?_⟩, rfl, rfl, by decide⟩
  cases h; decide

/-- A codec operation, and one of the nine others, with no buffer; the empty buffer is not that (R40). -/
theorem witness_AbsentBufferActsAsSomeBuffer : (holding none none).ibuf = none ∧
    (holding (some []) none).ibuf ≠ (holding none none).ibuf ∧
    (Instr.winRead ≠ .segDec ∧ ∀ code seq, Instr.winRead ≠ .segEnc code seq) :=
  ⟨rfl, by decide, by decide, fun _ _ => Instr.noConfusion⟩

/-- Each bound passed by one byte, and no bound. -/
theorem witness_LengthBoundsTheBuffers :
    ((holding (some [0x01]) (some 0)).payloadMax = some 0 ∧ (holding (some [0x01]) (some 0)).ibuf = some [0x01] ∧
      0 < [(0x01 : Byte)].length) ∧
    ((holding (some [0x01, 0x02]) (some 0)).ibuf = some [0x01, 0x02] ∧ 0 + 1 < [(0x01 : Byte), 0x02].length) ∧
    (holding none none).payloadMax = none := by decide

/-- A payload and a frame at the limits (CodecRoundTrip and BytesAreCopiedByIndex have the same hypotheses). -/
theorem witness_CodecRoundTrip :
    ((holding (some []) (some 0)).ibuf = some [] ∧
      ∀ m, (holding (some []) (some 0)).payloadMax = some m → ([] : Buffer).length ≤ m) ∧
    ((holding (some [0xC7]) (some 0)).ibuf = some [0xC7] ∧ 1 ≤ [(0xC7 : Byte)].length ∧
      ∀ m, (holding (some [0xC7]) (some 0)).payloadMax = some m → [(0xC7 : Byte)].length ≤ m + 1) :=
  ⟨⟨rfl, fun _ _ => Nat.zero_le _⟩, rfl, by decide, fun m _ => by simp⟩

/-- A codec operation, a WIN.TAKE that answers, and an illegal command presented. -/
theorem witness_RegisterAccessSummary : isWindowOp .segDec = false ∧
    (∃ t, exec .winTake (unit 1 0 0) = .next t) ∧ (∃ t, exec (.winGive 63) (unit 1 0 0) = .next t) ∧
    (∃ t, exec .winAck (unit 1 0 1) = .next t) ∧ (∃ t, exec .winRead (unit 1 0 1) = .next t) ∧
    (given 15 15 0 0xF0000000 none).requests = .command 0xF0000000 none :: [] ∧ legalByFields 0xF0000000 = false :=
  ⟨rfl, exists_next (by decide), exists_next (by decide), exists_next (by decide), exists_next (by decide), rfl,
    by decide⟩

/-- CommandSelects, for each of the eleven `op` values: a presented word that satisfies the row, and one with the
same `op` that does not. -/
theorem witness_CommandSelects : opcodeTable.all (fun r =>
    r.selects r.pattern && cmdOp r.pattern == r.opcode.select &&
      !r.selects (r.pattern ||| 0x08000000) && cmdOp (r.pattern ||| 0x08000000) == r.opcode.select) = true := by
  decide

theorem witness_CommandSelects_presented (w : Word) (b : Option Buffer) :
    (given 15 15 0 w b).requests = .command w b :: [] := rfl

theorem witness_SequenceLaws : (0 < 64 ∧ 63 < 64) ∧ 62 < (decrement 62 63).toNat := by decide

theorem witness_NoneActsAsMinusOne : (62#6 ≠ 63#6) := by decide

theorem witness_MembersAreCounted : memberFlag false 60 2 1 = true ∧ (1 ≤ 5 ∧ 5 ≤ (decrement 1 60).toNat) := by decide

/-- One credit left, and none. -/
theorem witness_WinTakeConsumesOneCredit : ((unit 15 1 0).Inv ∧ 0 < (unit 15 1 0).credits.toNat) ∧
    (unit 15 0 0).Inv ∧ (unit 15 0 0).credits.toNat = 0 := by decide

/-- WinGiveCapsAtWindow, GivingAtOnceIsGivingOneByOne, WinReadReportsRegisters: the invariant at both ends. -/
theorem witness_Inv : (unit 1 0 0).Inv ∧ (unit 32 32 32).Inv := by decide

/-- The threshold passed at the cap and below it, and not passed by one. -/
theorem witness_WinAckCountsTowardGrowth :
    ((unit 32 10 32).Inv ∧ (unit 32 10 32).window.toNat < (unit 32 10 32).streak.toNat + 1) ∧
    ((unit 1 0 1).Inv ∧ (unit 1 0 1).window.toNat < (unit 1 0 1).streak.toNat + 1) ∧
    (unit 32 10 31).Inv ∧ (unit 32 10 31).streak.toNat + 1 ≤ (unit 32 10 31).window.toNat := by decide

theorem witness_WinGapHalvesWindow : (unit 1 0 0).Inv ∧ (unit 32 32 5).Inv := by decide

theorem witness_WindowUnitReportsWhatItLeaves : isWindowOp .winTake = true := by decide

/-- Streak cleared by the WIN.ACK that passes the threshold, not by the one that does not. -/
theorem witness_OnlyThreeOperationsClearStreak : (unit 15 15 15).Inv ∧
    (unit 15 15 15).window.toNat < (unit 15 15 15).streak.toNat + 1 ∧
    (unit 15 15 14).Inv ∧ ¬(unit 15 15 14).window.toNat < (unit 15 15 14).streak.toNat + 1 := by decide

/-- A window just below the cap, the least window, the largest. -/
theorem witness_GrowthIsAdditiveShrinkIsHalving :
    ((unit 31 0 0).Inv ∧ (unit 31 0 0).window.toNat < 32 ∧ (unit 31 0 0).streak = 0#6 ∧
      31 ≤ (unit 31 0 0).window.toNat) ∧
    ((unit 1 1 0).Inv ∧ (unit 1 1 0).window = 1#6 ∧ (unit 1 1 0).streak = 0#6) ∧
    (unit 32 32 0).Inv ∧ (unit 32 32 0).window = 32#6 ∧ [32, 16, 8, 4, 2, 1, 1][6]? = some 1 := by decide

end Sys2Proof.Tests
end

section
/-! SUPPORT. The registers an operation leaves, as functions of the registers it reads (`10_state.md` R25), and what
an illegal command leaves (`30_encoding.md` R69). -/

namespace Sys2Proof.Machine

/-! ## Operations outside the window unit

The outcomes of SEG.ENC and SEG.DEC, by the buffer they read (R90, R93, R195). -/

section
variable {code : Code} {seq : SeqNum} {s : State} {hd : Byte} {payload frame : Buffer}

theorem exec_segEnc_of_tooLong (hp : payloadOf code seq s.ibuf = payload)
    (h : tooLong s.payloadMax 0 payload.length = true) :
    exec (.segEnc code seq) s = .next (raise Opcode.segEnc.select .length s) := by
  subst hp; exact if_pos h

theorem exec_segEnc_of_fits (hp : payloadOf code seq s.ibuf = payload)
    (h : tooLong s.payloadMax 0 payload.length = false) :
    exec (.segEnc code seq) s = .next (s.answer (responseWord Opcode.segEnc.select .ok false 0 0 0 0)
      (headerByte code seq :: payload)) := by
  subst hp; exact if_neg (by simp [h])

theorem exec_segDec_of_tooLong (hf : frameOf s.ibuf = frame)
    (h : tooLong s.payloadMax Config.headerBytes frame.length = true) :
    exec .segDec s = .next (raise Opcode.segDec.select .length s) := by
  subst hf; exact if_pos h

theorem exec_segDec_of_nil (hf : frameOf s.ibuf = []) :
    exec .segDec s = .next (raise Opcode.segDec.select .noSegment s) := by
  have h : tooLong s.payloadMax Config.headerBytes ([] : Buffer).length = false :=
    tooLong_eq_false.2 fun _ _ => Nat.zero_le _
  simp only [exec, execSegDec, hf, h]
  rfl

theorem exec_segDec_of_cons (hf : frameOf s.ibuf = hd :: payload)
    (h : tooLong s.payloadMax Config.headerBytes (hd :: payload).length = false) :
    exec .segDec s = .next (s.answer
      (responseWord Opcode.segDec.select .ok true (headerCode hd) 0 0 (headerSeq hd)) payload) := by
  simp only [exec, execSegDec, hf, h]
  rfl

end

/-- A codec or sequence operation answers one response that IBUF and PAYLOAD_MAX determine, and changes nothing else
(R25, R98). -/
theorem exec_of_not_isWindowOp {i : Instr} (hi : isWindowOp i = false) (b : Option Buffer) (max : Option Nat) :
    ∃ rsp obuf, ∀ s : State, s.ibuf = b → s.payloadMax = max → exec i s = .next (s.answer rsp obuf) := by
  cases i with
  | segEnc code seq =>
    cases h : tooLong max 0 (payloadOf code seq b).length with
    | true => exact ⟨_, _, fun s hb hm => exec_segEnc_of_tooLong (congrArg _ hb) (hm ▸ h)⟩
    | false => exact ⟨_, _, fun s hb hm => exec_segEnc_of_fits (congrArg _ hb) (hm ▸ h)⟩
  | segDec =>
    cases hf : frameOf b with
    | nil => exact ⟨_, _, fun s hb _ => exec_segDec_of_nil (hb ▸ hf)⟩
    | cons hd payload =>
      cases h : tooLong max Config.headerBytes (hd :: payload).length with
      | true => exact ⟨_, _, fun s hb hm => exec_segDec_of_tooLong (hb ▸ hf) (hm ▸ h)⟩
      | false => exact ⟨_, _, fun s hb hm => exec_segDec_of_cons (hb ▸ hf) (hm ▸ h)⟩
  | seqInc seq => exact ⟨_, _, fun _ _ _ => rfl⟩
  | seqDec seq n => exact ⟨_, _, fun _ _ _ => rfl⟩
  | seqIn noLo lo hi x => exact ⟨_, _, fun _ _ _ => rfl⟩
  | winReset | winTake | winGive | winAck | winGap | winRead => cases hi

/-! ## The registers each operation leaves

The arguments of each function are the registers that any operation reads in order to write the register in question:
WINDOW and STREAK never depend on CREDITS, and CREDITS never on STREAK (the table of R25). -/

/-- WINDOW after an operation. -/
def windowAfter (i : Instr) (window streak : Reg) : Reg :=
  match i with
  | .winReset => 15#6
  | .winAck => if streakPasses streak window then windowGrown window else window
  | .winGap => windowShrunk window
  | .winTake | .winGive _ | .winRead | .segEnc _ _ | .segDec | .seqInc _ | .seqDec _ _ | .seqIn _ _ _ _ => window

/-- CREDITS after an operation; WIN.TAKE at zero credits is refused, and the truncated difference is then 0. -/
def creditsAfter (i : Instr) (window credits : Reg) : Reg :=
  match i with
  | .winReset => 15#6
  | .winTake => BitVec.ofNat Config.regBits (credits.toNat - 1)
  | .winGive n => creditsGiven credits window n
  | .winGap => windowShrunk window
  | .winAck | .winRead | .segEnc _ _ | .segDec | .seqInc _ | .seqDec _ _ | .seqIn _ _ _ _ => credits

/-- STREAK after an operation. -/
def streakAfter (i : Instr) (window streak : Reg) : Reg :=
  match i with
  | .winReset | .winGap => 0#6
  | .winAck => if streakPasses streak window then 0#6 else BitVec.ofNat Config.regBits (streak.toNat + 1)
  | .winTake | .winGive _ | .winRead | .segEnc _ _ | .segDec | .seqInc _ | .seqDec _ _ | .seqIn _ _ _ _ => streak

/-- The state with the registers an operation leaves, before its response is added. -/
def State.afterInstr (s : State) (i : Instr) : State :=
  s.writeUnit (windowAfter i s.window s.streak) (creditsAfter i s.window s.credits) (streakAfter i s.window s.streak)

/-- A WIN.TAKE that is refused leaves the registers as they are (R132). -/
theorem afterInstr_winTake_of_credits_eq_zero {s : State} (h : s.credits.toNat = 0) : s.afterInstr .winTake = s := by
  have hc : BitVec.ofNat Config.regBits (s.credits.toNat - 1) = s.credits :=
    BitVec.eq_of_toNat_eq (by rw [reg_toNat_ofNat]; omega)
  simp only [State.afterInstr, creditsAfter, hc]
  rfl

/-- A WIN.ACK past the threshold grows WINDOW and clears STREAK (R134). -/
theorem afterInstr_winAck_of_passes {s : State} (h : streakPasses s.streak s.window = true) :
    s.afterInstr .winAck = s.writeUnit (windowGrown s.window) s.credits 0#6 := by
  simp only [State.afterInstr, windowAfter, creditsAfter, streakAfter, if_pos h]

/-- A WIN.ACK within the threshold counts one in STREAK (R134). -/
theorem afterInstr_winAck_of_not_passes {s : State} (h : ¬ streakPasses s.streak s.window = true) :
    s.afterInstr .winAck = s.writeUnit s.window s.credits (BitVec.ofNat Config.regBits (s.streak.toNat + 1)) := by
  simp only [State.afterInstr, windowAfter, creditsAfter, streakAfter, if_neg h]

/-- An operation outside the window unit writes no register (R25). -/
theorem afterInstr_of_not_isWindowOp {i : Instr} (hi : isWindowOp i = false) (s : State) : s.afterInstr i = s := by
  cases i with
  | segEnc | segDec | seqInc | seqDec | seqIn => rfl
  | winReset | winTake | winGive | winAck | winGap | winRead => cases hi

/-- What an operation can do, with the registers it leaves: it writes those of `afterInstr` and adds one response. -/
theorem exec_eq_afterInstr (i : Instr) (s : State) :
    ∃ rsp obuf, exec i s = .next ((s.afterInstr i).answer rsp obuf) := by
  have outside (hi : isWindowOp i = false) : ∃ rsp obuf, exec i s = .next ((s.afterInstr i).answer rsp obuf) := by
    obtain ⟨rsp, obuf, h⟩ := exec_of_not_isWindowOp hi s.ibuf s.payloadMax
    exact ⟨rsp, obuf, by rw [afterInstr_of_not_isWindowOp hi, h s rfl rfl]⟩
  cases i with
  | segEnc | segDec | seqInc | seqDec | seqIn => exact outside rfl
  | winReset => exact ⟨_, _, rfl⟩
  | winTake =>
    by_cases h : grantFlag s.credits = true
    · exact ⟨_, _, if_pos h⟩
    · have h0 : s.credits.toNat = 0 := by rw [grantFlag_iff] at h; omega
      rw [afterInstr_winTake_of_credits_eq_zero h0]
      exact ⟨_, _, if_neg h⟩
  | winGive n => exact ⟨_, _, rfl⟩
  | winAck =>
    by_cases h : streakPasses s.streak s.window = true
    · rw [afterInstr_winAck_of_passes h]
      exact ⟨_, _, if_pos h⟩
    · rw [afterInstr_winAck_of_not_passes h]
      exact ⟨_, _, if_neg h⟩
  | winGap => exact ⟨_, _, rfl⟩
  | winRead => exact ⟨_, _, rfl⟩

/-- The registers of the state an operation answers. -/
theorem registers_of_exec {i : Instr} {s t : State} (h : exec i s = .next t) :
    t.window = windowAfter i s.window s.streak ∧ t.credits = creditsAfter i s.window s.credits ∧
      t.streak = streakAfter i s.window s.streak := by
  obtain ⟨rsp, obuf, he⟩ := exec_eq_afterInstr i s
  rw [he] at h
  cases h
  exact ⟨rfl, rfl, rfl⟩

/-- Every operation answers a next state, with these registers (R193). -/
theorem exists_exec_registers (i : Instr) (s : State) :
    ∃ t, exec i s = .next t ∧ t.window = windowAfter i s.window s.streak ∧
      t.credits = creditsAfter i s.window s.credits ∧ t.streak = streakAfter i s.window s.streak := by
  obtain ⟨rsp, obuf, h⟩ := exec_eq_afterInstr i s
  exact ⟨_, h, registers_of_exec h⟩

/-! ## Illegal command words -/

/-- Bits that lie inside the mask of a row are the pattern's in every word the row selects (R67). -/
theorem extractLsb'_of_and_mask_eq {w mask pattern : Word} (h : w &&& mask = pattern) {start len : Nat}
    (hmask : (~~~mask).extractLsb' start len = 0) : w.extractLsb' start len = pattern.extractLsb' start len := by
  have split : w = pattern ||| (w &&& ~~~mask) := by
    rw [← h, ← BitVec.and_or_distrib_left, BitVec.or_not_self, BitVec.and_allOnes]
  calc w.extractLsb' start len = (pattern ||| (w &&& ~~~mask)).extractLsb' start len := by rw [← split]
    _ = pattern.extractLsb' start len := by simp [BitVec.extractLsb'_or, BitVec.extractLsb'_and, hmask]

/-- A field inside the mask of a row that is zero in its pattern is zero in every word the row selects (R67). -/
theorem fieldIsZero_of_and_mask_eq {w mask pattern : Word} (h : w &&& mask = pattern) {f : Field}
    (hmask : fieldIsZero (~~~mask) f = true) (hpattern : fieldIsZero pattern f = true) : fieldIsZero w f = true := by
  have zero (start len : Nat) (hm : (~~~mask).extractLsb' start len = 0) (hp : pattern.extractLsb' start len = 0) :
      w.extractLsb' start len = 0 := (extractLsb'_of_and_mask_eq h hm).trans hp
  cases f with
  | a | b | c | code => exact beq_iff_eq.2 (zero _ _ (beq_iff_eq.1 hmask) (beq_iff_eq.1 hpattern))
  | none =>
    have hbit : mask[20] = true := by simpa [fieldIsZero, cmdNone] using hmask
    simpa [← h, fieldIsZero, cmdNone, hbit] using hpattern

/-- A word that satisfies a row is legal by its fields: every field the row's operation does not use lies inside the
row's mask and is zero in its pattern (R67, R68). -/
theorem legalByFields_of_selects {r : Row} {w : Word} (hr : r ∈ opcodeTable) (h : r.selects w = true) :
    legalByFields w = true := by
  have rows : ∀ r ∈ opcodeTable, r.opcode ∈ opcodes ∧ cmdReserved (~~~r.mask) = 0 ∧ cmdReserved r.pattern = 0 ∧
      ∀ f ∈ operandFields, f ∉ fieldsUsed r.opcode →
        fieldIsZero (~~~r.mask) f = true ∧ fieldIsZero r.pattern f = true := by decide
  obtain ⟨hopcode, hmask, hpattern, hunused⟩ := rows r hr
  have hw : w &&& r.mask = r.pattern := by simpa [Row.selects] using h
  have hreserved : cmdReserved w = 0 := (extractLsb'_of_and_mask_eq hw hmask).trans hpattern
  have hfields : ∀ f ∈ operandFields, f ∉ fieldsUsed r.opcode → fieldIsZero w f = true := by
    intro f hf hu
    obtain ⟨hfmask, hfpattern⟩ := hunused f hf hu
    exact fieldIsZero_of_and_mask_eq hw hfmask hfpattern
  have hall : ∀ f ∈ operandFields, ((fieldsUsed r.opcode).contains f || fieldIsZero w f) = true := by
    intro f hf
    by_cases hu : f ∈ fieldsUsed r.opcode
    · simp [hu]
    · simp [hfields f hf hu]
  refine List.any_eq_true.2 ⟨r.opcode, hopcode, ?_⟩
  rw [cmdOp_of_selects hr h, hreserved, List.all_eq_true.2 hall, BEq.rfl, BEq.rfl]
  rfl

/-- An illegal word decodes to a rejection (R69). -/
theorem decode_of_illegal {w : Word} (h : legalByFields w = false) : decode w = .error (whyIllegal w) := by
  obtain ⟨r, hr, hs, -⟩ | ⟨-, he⟩ := decode_cases w
  · exact absurd (legalByFields_of_selects hr hs) (by simp [h])
  · exact he

/-- A step that takes an illegal command rejects it, and IBUF is gone afterwards (R69). -/
theorem step_of_illegal {s : State} {w : Word} {b : Option Buffer} {rest : List Request}
    (hreq : s.requests = .command w b :: rest) (h : legalByFields w = false) :
    step s = .next (rejectCommand w (s.take rest b)).release := by
  simp [step, fetch_of_cons hreq, decode_of_illegal h]

/-- Rejecting a command answers ILLEGAL_CMD with `op` repeated, and changes nothing else (R69). -/
theorem rejectCommand_eq_answer (w : Word) (s : State) :
    rejectCommand w s = s.answer (responseWord (cmdOp w) .illegalCmd false 0 0 0 0) [] := rfl

end Sys2Proof.Machine
end

section
/-! SUPPORT. The invariant of the three registers (`10_state.md` R23): the reset state satisfies it and every step keeps
it. -/

namespace Sys2Proof.Machine

/-! `Inv` speaks of the registers alone. -/

@[simp] theorem inv_answer (s : State) (r : RspWord) (b : Buffer) : (s.answer r b).Inv ↔ s.Inv := Iff.rfl
@[simp] theorem inv_take (s : State) (rest : List Request) (b : Option Buffer) : (s.take rest b).Inv ↔ s.Inv := Iff.rfl
@[simp] theorem inv_release (s : State) : s.release.Inv ↔ s.Inv := Iff.rfl
@[simp] theorem inv_rejectCommand (w : Word) (s : State) : (rejectCommand w s).Inv ↔ s.Inv := Iff.rfl

/-- The reset values satisfy `Inv`, whatever stood in the registers before (R24). -/
theorem inv_resetUnit (s : State) : s.resetUnit.Inv := by
  simp [State.Inv]

/-- The registers each operation leaves satisfy `Inv` (R137). -/
theorem inv_afterInstr {s : State} (i : Instr) (hs : s.Inv) : (s.afterInstr i).Inv := by
  obtain ⟨⟨hmin, hmax⟩, hcredits, hstreak⟩ := hs
  cases i with
  | segEnc | segDec | seqInc | seqDec | seqIn | winRead => exact ⟨⟨hmin, hmax⟩, hcredits, hstreak⟩
  | winReset => exact inv_resetUnit s
  | winTake =>
    have htaken : (BitVec.ofNat Config.regBits (s.credits.toNat - 1)).toNat ≤ s.credits.toNat := by
      rw [reg_toNat_ofNat]; omega
    exact ⟨⟨hmin, hmax⟩, htaken.trans hcredits, hstreak⟩
  | winGive n =>
    have hgiven : (creditsGiven s.credits s.window n).toNat ≤ s.window.toNat := by
      rw [creditsGiven_toNat]; omega
    exact ⟨⟨hmin, hmax⟩, hgiven, hstreak⟩
  | winAck =>
    by_cases hp : streakPasses s.streak s.window = true
    · have hgrown := windowGrown_toNat s.window
      have hbounds : 1 ≤ (windowGrown s.window).toNat ∧ (windowGrown s.window).toNat ≤ 32 := by omega
      have hwider : s.window.toNat ≤ (windowGrown s.window).toNat := by omega
      rw [afterInstr_winAck_of_passes hp]
      exact ⟨hbounds, hcredits.trans hwider, Nat.zero_le _⟩
    · have hcounted : s.streak.toNat + 1 ≤ s.window.toNat := by rw [streakPasses_iff] at hp; omega
      rw [afterInstr_winAck_of_not_passes hp]
      refine ⟨⟨hmin, hmax⟩, hcredits, ?_⟩
      simp only [State.writeUnit_streak, State.writeUnit_window, reg_toNat_ofNat]
      omega
  | winGap =>
    have hshrunk := windowShrunk_toNat s.window
    have hbounds : 1 ≤ (windowShrunk s.window).toNat ∧ (windowShrunk s.window).toNat ≤ 32 := by omega
    exact ⟨hbounds, Nat.le_refl _, Nat.zero_le _⟩

/-- Every operation keeps `Inv` (R137). -/
theorem exec_keeps_inv {i : Instr} {s t : State} (hs : s.Inv) (h : exec i s = .next t) : t.Inv := by
  obtain ⟨rsp, obuf, he⟩ := exec_eq_afterInstr i s
  rw [he] at h
  cases h
  exact (inv_answer _ rsp obuf).2 (inv_afterInstr i hs)

/-- Every step answers, and the state it leaves satisfies `Inv` where the state before did (R23, R193). -/
theorem exists_step_inv {s : State} (hs : s.Inv) : ∃ t, step s = .next t ∧ t.Inv := by
  obtain ⟨-, h⟩ | ⟨_, -, h⟩ | ⟨_, b, rest, i, u, -, -, hu, h⟩ | ⟨_, _, _, _, -, -, h⟩ := step_cases s
  · exact ⟨_, h, hs⟩
  · exact ⟨_, h, inv_resetUnit _⟩
  · exact ⟨_, h, (inv_release u).2 (exec_keeps_inv ((inv_take s rest b).2 hs) hu)⟩
  · exact ⟨_, h, by simpa only [inv_release, inv_rejectCommand, inv_take] using hs⟩

/-- Settles O2: the registers of the reset state are `(15, 15, 0)`. -/
theorem resetSatisfiesInvariant : Obligations.ResetSatisfiesInvariant :=
  inv_resetUnit State.reset

/-- Settles O3, by what a step can do and the registers each operation leaves. -/
theorem stepKeepsInvariant : Obligations.StepKeepsInvariant := by
  intro s t hs h
  obtain ⟨u, hu, hinv⟩ := exists_step_inv hs
  rw [hu] at h
  cases h
  exact hinv

end Sys2Proof.Machine
end

section
/-! SUPPORT. Which registers each operation reads and writes (`10_state.md` R25). -/

namespace Sys2Proof.Machine

/-- The response of a codec or sequence operation does not depend on the registers, and it writes none (R25). -/
theorem exec_ignores_registers {i : Instr} (hi : isWindowOp i = false) (s : State) (w c k : Reg) :
    ∃ t u x, exec i s = .next t ∧ exec i (s.writeUnit w c k) = .next u ∧
      t = { s with responses := s.responses ++ [x] } ∧ u.responses = t.responses := by
  obtain ⟨rsp, obuf, h⟩ := exec_of_not_isWindowOp hi s.ibuf s.payloadMax
  exact ⟨s.answer rsp obuf, _, ⟨rsp, obuf⟩, h s rfl rfl, h (s.writeUnit w c k) rfl rfl, rfl, rfl⟩

/-- An illegal command writes no register, and its response does not depend on one (R25, R69). -/
theorem step_of_illegal_ignores_registers {s : State} {word : Word} {b : Option Buffer} {rest : List Request}
    (hreq : s.requests = .command word b :: rest) (hill : legalByFields word = false) (w c k : Reg) :
    ∃ t u, step s = .next t ∧ step (s.writeUnit w c k) = .next u ∧
      t.window = s.window ∧ t.credits = s.credits ∧ t.streak = s.streak ∧ u.responses = t.responses :=
  ⟨_, _, step_of_illegal hreq hill, step_of_illegal (s := s.writeUnit w c k) hreq hill, by
    simp [rejectCommand_eq_answer]⟩

/-- From states that agree in what the operation's law of CREDITS reads, it leaves the same CREDITS. -/
theorem exists_exec_credits_eq (i : Instr) {s s' : State}
    (h : creditsAfter i s'.window s'.credits = creditsAfter i s.window s.credits) :
    ∃ t u, exec i s = .next t ∧ exec i s' = .next u ∧ u.credits = t.credits := by
  obtain ⟨t, ht, -, hc, -⟩ := exists_exec_registers i s
  obtain ⟨u, hu, -, hc', -⟩ := exists_exec_registers i s'
  exact ⟨t, u, ht, hu, by rw [hc', hc, h]⟩

/-- No operation's WINDOW or STREAK depends on CREDITS (R25). -/
theorem exists_exec_window_streak_eq (i : Instr) (s : State) (c : Reg) :
    ∃ t u, exec i s = .next t ∧ exec i (s.writeUnit s.window c s.streak) = .next u ∧
      u.window = t.window ∧ u.streak = t.streak := by
  obtain ⟨t, ht, hw, -, hk⟩ := exists_exec_registers i s
  obtain ⟨u, hu, hw', -, hk'⟩ := exists_exec_registers i (s.writeUnit s.window c s.streak)
  exact ⟨t, u, ht, hu, hw'.trans hw.symm, hk'.trans hk.symm⟩

/-- Settles O33: each row of the table from the law of the register it speaks of. WIN.RESET and WIN.GAP write every
register they do not read, so their whole next state is the same. -/
theorem registerAccessSummary : Obligations.RegisterAccessSummary := by
  refine ⟨?codecAndSequence, ?resetReads, ?takeWrites, ?takeReads, ?giveWrites, ?giveReads, ?ackWrites, ?ackReads,
    ?gapReads, ?readWrites, ?illegal⟩
  case codecAndSequence => exact fun i s w c k hi => exec_ignores_registers hi s w c k
  case resetReads => exact fun _ _ _ _ => rfl
  case takeWrites =>
    intro s t h
    obtain ⟨hw, -, hk⟩ := registers_of_exec h
    exact ⟨hw, hk⟩
  case takeReads => exact fun s w k => exists_exec_credits_eq .winTake (s' := s.writeUnit w s.credits k) rfl
  case giveWrites =>
    intro n s t h
    obtain ⟨hw, -, hk⟩ := registers_of_exec h
    exact ⟨hw, hk⟩
  case giveReads =>
    exact fun n s k => exists_exec_credits_eq (.winGive n) (s' := s.writeUnit s.window s.credits k) rfl
  case ackWrites =>
    intro s t h
    obtain ⟨-, hc, -⟩ := registers_of_exec h
    exact hc
  case ackReads => exact fun s c => exists_exec_window_streak_eq .winAck s c
  case gapReads => exact fun _ _ _ => rfl
  case readWrites => exact fun s t h => registers_of_exec h
  case illegal => exact fun s word b rest w c k hreq hill => step_of_illegal_ignores_registers hreq hill w c k

end Sys2Proof.Machine
end

section
/-! SUPPORT. What an operation does to the buffers and to the command port: IBUF and OBUF (`20_memory.md` R40, R42, R46,
R53), the waiting requests and the earlier responses (R48). -/

namespace Sys2Proof.Machine

/-! ## What every operation leaves as it was -/

/-- An operation adds one response and leaves IBUF, the waiting requests and PAYLOAD_MAX as they were (R42, R48). -/
theorem exec_frame {i : Instr} {s t : State} (h : exec i s = .next t) :
    (∃ x, t.responses = s.responses ++ [x]) ∧ t.ibuf = s.ibuf ∧ t.requests = s.requests ∧
      t.payloadMax = s.payloadMax := by
  obtain ⟨rsp, obuf, he⟩ := exec_eq_afterInstr i s
  rw [he] at h
  cases h
  exact ⟨⟨_, rfl⟩, rfl, rfl, rfl⟩

/-- The two operations of the codec unit, and the nine outside it (R67). -/
theorem segEnc_or_segDec_or_outside_codec (i : Instr) :
    (∃ code seq, i = .segEnc code seq) ∨ i = .segDec ∨ (i ≠ .segDec ∧ ∀ code seq, i ≠ .segEnc code seq) := by
  by_cases henc : ∃ code seq, i = .segEnc code seq
  · exact .inl henc
  · by_cases hdec : i = .segDec
    · exact .inr (.inl hdec)
    · exact .inr (.inr ⟨hdec, fun code seq h => henc ⟨code, seq, h⟩⟩)

/-! ## The nine operations outside the codec unit -/

/-- The operation, performed with any buffer or none, writes its registers, answers `rsp` and returns no bytes. -/
def AnswersWithAnyBuffer (i : Instr) (s : State) (rsp : RspWord) : Prop :=
  ∀ b : Option Buffer,
    exec i { s with ibuf := b } = .next ((State.afterInstr { s with ibuf := b } i).answer rsp [])

theorem rspStatus_responseWord_ne_length {op : OpSelect} {st : Status} {flag : Bool} {code : Code} {r2 r1 r0 : Reg}
    (hst : st ≠ .length) : rspStatus (responseWord op st flag code r2 r1 r0) ≠ Status.length.code := by
  rw [rspStatus_responseWord]
  exact mt Status.code_injective hst

/-- An operation that ends in a report of the registers it leaves reads no buffer and has status OK (R71). -/
theorem exists_answersWithAnyBuffer_of_report {i : Instr} {s : State} (op : OpSelect) (flag : Bool)
    (h : ∀ b : Option Buffer,
      exec i { s with ibuf := b } = .next (reportUnit op flag (State.afterInstr { s with ibuf := b } i))) :
    ∃ rsp, rspStatus rsp ≠ Status.length.code ∧ AnswersWithAnyBuffer i s rsp :=
  ⟨responseWord op .ok flag 0 (s.afterInstr i).streak (s.afterInstr i).credits (s.afterInstr i).window,
    rspStatus_responseWord_ne_length (by decide), h⟩

/-- An operation outside the codec unit reads no buffer and never ends with status LENGTH (R40, R53). -/
theorem exists_answersWithAnyBuffer {i : Instr} (hi : i ≠ .segDec ∧ ∀ code seq, i ≠ .segEnc code seq) (s : State) :
    ∃ rsp, rspStatus rsp ≠ Status.length.code ∧ AnswersWithAnyBuffer i s rsp := by
  obtain ⟨hdec, henc⟩ := hi
  cases i with
  | segEnc code seq => exact absurd rfl (henc code seq)
  | segDec => exact absurd rfl hdec
  | seqInc | seqDec | seqIn => exact ⟨_, rspStatus_responseWord_ne_length (st := .ok) (by decide), fun _ => rfl⟩
  | winReset | winGive | winGap | winRead => exact exists_answersWithAnyBuffer_of_report _ _ fun _ => rfl
  | winTake =>
    by_cases h : grantFlag s.credits = true
    · exact exists_answersWithAnyBuffer_of_report _ _ fun _ => if_pos h
    · have h0 : s.credits.toNat = 0 := by rw [grantFlag_iff] at h; omega
      refine ⟨responseWord Opcode.winTake.select .noCredit false 0 s.streak 0 s.window,
        rspStatus_responseWord_ne_length (by decide), fun b => ?_⟩
      rw [afterInstr_winTake_of_credits_eq_zero (s := { s with ibuf := b }) h0]
      exact if_neg h
  | winAck =>
    by_cases h : streakPasses s.streak s.window = true
    · refine exists_answersWithAnyBuffer_of_report Opcode.winAck.select (grewFlag s.window (windowGrown s.window))
        fun b => ?_
      rw [afterInstr_winAck_of_passes (s := { s with ibuf := b }) h]
      exact if_pos h
    · refine exists_answersWithAnyBuffer_of_report Opcode.winAck.select false fun b => ?_
      rw [afterInstr_winAck_of_not_passes (s := { s with ibuf := b }) h]
      exact if_neg h

/-! ## The two operations of the codec unit -/

/-- SEG.ENC answers what the payload it reads and PAYLOAD_MAX determine, with status LENGTH only for a payload that is
too long (R53, R90). -/
theorem exec_segEnc_of_payload (code : Code) (seq : SeqNum) (payload : Buffer) (max : Option Nat) :
    ∃ rsp obuf, (rspStatus rsp = Status.length.code → tooLong max 0 payload.length = true) ∧
      ∀ s : State, payloadOf code seq s.ibuf = payload → s.payloadMax = max →
        exec (.segEnc code seq) s = .next (s.answer rsp obuf) := by
  cases h : tooLong max 0 payload.length with
  | true => exact ⟨_, _, fun _ => rfl, fun s hp hm => exec_segEnc_of_tooLong hp (hm ▸ h)⟩
  | false => exact ⟨_, _, by simp [Status.code], fun s hp hm => exec_segEnc_of_fits hp (hm ▸ h)⟩

/-- SEG.DEC answers what the frame it reads and PAYLOAD_MAX determine, with status LENGTH only for a frame that is too
long (R53, R93). -/
theorem exec_segDec_of_frame (frame : Buffer) (max : Option Nat) :
    ∃ rsp obuf, (rspStatus rsp = Status.length.code → tooLong max Config.headerBytes frame.length = true) ∧
      ∀ s : State, frameOf s.ibuf = frame → s.payloadMax = max → exec .segDec s = .next (s.answer rsp obuf) := by
  cases frame with
  | nil =>
    exact ⟨responseWord _ .noSegment false 0 0 0 0, [], by simp [Status.code], fun s hf _ => exec_segDec_of_nil hf⟩
  | cons hd payload =>
    cases h : tooLong max Config.headerBytes (hd :: payload).length with
    | true => exact ⟨_, _, fun _ => rfl, fun s hf hm => exec_segDec_of_tooLong hf (hm ▸ h)⟩
    | false => exact ⟨_, _, by simp [Status.code], fun s hf hm => exec_segDec_of_cons hf (hm ▸ h)⟩

/-! ## The command port -/

/-- Settles O5, by what a step can do: every step that takes a request ends with no IBUF, and no operation writes
PAYLOAD_MAX. -/
theorem noBufferOutlivesItsOperation : Obligations.NoBufferOutlivesItsOperation := by
  intro s t hs ht
  obtain ⟨-, h⟩ | ⟨_, -, h⟩ | ⟨_, _, _, _, _, -, -, hu, h⟩ | ⟨_, _, _, _, -, -, h⟩ := step_cases s
  · cases h.symm.trans ht
    exact ⟨hs, rfl⟩
  · cases h.symm.trans ht
    exact ⟨rfl, rfl⟩
  · cases h.symm.trans ht
    obtain ⟨-, -, -, hmax⟩ := exec_frame hu
    exact ⟨rfl, hmax⟩
  · cases h.symm.trans ht
    exact ⟨rfl, rfl⟩

/-- Settles O9, by what a step can do: a command is performed or rejected, each with one response. -/
theorem requestsTakenInOrder : Obligations.RequestsTakenInOrder := by
  intro s r rest hreq
  obtain ⟨hr, -⟩ | ⟨_, hr, h⟩ | ⟨_, _, _, _, _, hr, -, hu, h⟩ | ⟨_, _, _, _, hr, -, h⟩ := step_cases s
  · cases hr.symm.trans hreq
  · cases hr.symm.trans hreq
    exact ⟨_, h, rfl, rfl⟩
  · cases hr.symm.trans hreq
    obtain ⟨hresponses, -, hrequests, -⟩ := exec_frame hu
    exact ⟨_, h, hrequests, hresponses⟩
  · cases hr.symm.trans hreq
    exact ⟨_, h, rfl, _, rfl⟩

/-! ## Buffers -/

/-- Settles O32: the frame of every operation, and the empty OBUF of those that answer alike with any buffer. -/
theorem noOperationModifiesTheInputBuffer : Obligations.NoOperationModifiesTheInputBuffer := by
  intro i s
  by_cases hi : i ≠ .segDec ∧ ∀ code seq, i ≠ .segEnc code seq
  · obtain ⟨rsp, -, h⟩ := exists_answersWithAnyBuffer hi s
    exact ⟨_, ⟨rsp, []⟩, h s.ibuf, rfl, rfl, rfl, rfl, fun _ => rfl⟩
  · obtain ⟨rsp, obuf, h⟩ := exec_eq_afterInstr i s
    exact ⟨_, ⟨rsp, obuf⟩, h, rfl, rfl, rfl, rfl, fun hout => absurd hout hi⟩

/-- Settles O28: the buffer is the free value that SEG.ENC or SEG.DEC reads in place of IBUF, and any buffer for the
other operations. -/
theorem absentBufferActsAsSomeBuffer : Obligations.AbsentBufferActsAsSomeBuffer := by
  intro i s hs
  obtain ⟨code, seq, rfl⟩ | rfl | hout := segEnc_or_segDec_or_outside_codec i
  · obtain ⟨rsp, obuf, -, h⟩ := exec_segEnc_of_payload code seq (Config.absentPayload code seq) s.payloadMax
    exact ⟨_, _, h s (by rw [hs]; rfl) rfl, h { s with ibuf := some _ } rfl rfl,
      fun ⟨_, henc⟩ => absurd rfl (henc code seq)⟩
  · obtain ⟨rsp, obuf, -, h⟩ := exec_segDec_of_frame Config.absentFrame s.payloadMax
    exact ⟨_, _, h s (by rw [hs]; rfl) rfl, h { s with ibuf := some _ } rfl rfl, fun ⟨hdec, _⟩ => absurd rfl hdec⟩
  · obtain ⟨rsp, -, h⟩ := exists_answersWithAnyBuffer hout s
    exact ⟨[], _, h s.ibuf, h (some []), fun _ b' => h (some b')⟩

/-! ### The bound on buffers (R53) -/

/-- The status LENGTH as the number of R191. -/
theorem rspStatus_toNat_eq_four_iff (r : RspWord) : (rspStatus r).toNat = 4 ↔ rspStatus r = Status.length.code :=
  ⟨fun h => BitVec.eq_of_toNat_eq h, fun h => by rw [h]; rfl⟩

/-- An operation that raises LENGTH answers it with no output (R192). -/
theorem exists_length_response {i : Instr} {s : State} {op : OpSelect}
    (h : exec i s = .next (raise op .length s)) :
    ∃ t x, exec i s = .next t ∧ t.responses = s.responses ++ [x] ∧ (rspStatus x.rsp).toNat = 4 ∧ x.obuf = [] := by
  obtain ⟨rsp, hraise, -, hstatus, -⟩ := raise_spec op .length s
  exact ⟨_, ⟨rsp, []⟩, h, by rw [hraise]; rfl, (rspStatus_toNat_eq_four_iff rsp).2 hstatus, rfl⟩

/-- With PAYLOAD_MAX unbounded no operation ends with status LENGTH (R53). -/
theorem exists_response_status_ne_length_of_unbounded (i : Instr) {s : State} (hmax : s.payloadMax = none) :
    ∃ t x, exec i s = .next t ∧ t.responses = s.responses ++ [x] ∧ rspStatus x.rsp ≠ Status.length.code := by
  obtain ⟨code, seq, rfl⟩ | rfl | hout := segEnc_or_segDec_or_outside_codec i
  · obtain ⟨rsp, obuf, hlength, h⟩ := exec_segEnc_of_payload code seq (payloadOf code seq s.ibuf) none
    exact ⟨_, ⟨rsp, obuf⟩, h s rfl hmax, rfl, fun hst => Bool.noConfusion (hlength hst)⟩
  · obtain ⟨rsp, obuf, hlength, h⟩ := exec_segDec_of_frame (frameOf s.ibuf) none
    exact ⟨_, ⟨rsp, obuf⟩, h s rfl hmax, rfl, fun hst => Bool.noConfusion (hlength hst)⟩
  · obtain ⟨rsp, hst, h⟩ := exists_answersWithAnyBuffer hout s
    exact ⟨_, ⟨rsp, []⟩, h s.ibuf, rfl, hst⟩

/-- Settles O29: a buffer past a finite bound raises LENGTH, and without a bound nothing does. -/
theorem lengthBoundsTheBuffers : Obligations.LengthBoundsTheBuffers := by
  refine ⟨fun s m b hm hb => ⟨fun code seq hlong => ?enc, fun hlong => ?dec⟩, fun s i hm => ?unbounded⟩
  case enc =>
    exact exists_length_response
      (exec_segEnc_of_tooLong (by rw [hb, payloadOf_some]) (tooLong_eq_true.2 ⟨m, hm, hlong⟩))
  case dec =>
    exact exists_length_response
      (exec_segDec_of_tooLong (by rw [hb, frameOf_some]) (tooLong_eq_true.2 ⟨m, hm, hlong⟩))
  case unbounded =>
    obtain ⟨t, x, h, hx, hst⟩ := exists_response_status_ne_length_of_unbounded i hm
    exact ⟨t, x, h, hx, mt (rspStatus_toNat_eq_four_iff x.rsp).1 hst⟩

/-! ### Bytes by index (R41) -/

@[simp] theorem byteAt_cons_zero (h : Byte) (b : Buffer) : byteAt (h :: b) 0 = some h := rfl
@[simp] theorem byteAt_cons_succ (h : Byte) (b : Buffer) (i : Nat) : byteAt (h :: b) (i + 1) = byteAt b i := rfl

/-- Settles O31: a frame is the header byte and then the payload, so a byte of the payload stands one index further
in the frame. -/
theorem bytesAreCopiedByIndex : Obligations.BytesAreCopiedByIndex := by
  refine ⟨fun code seq s payload hb hfits => ?enc, fun s frame hb hlen hfits => ?dec⟩
  case enc =>
    have h := exec_segEnc_of_fits (code := code) (seq := seq) (by rw [hb, payloadOf_some]) (tooLong_eq_false.2 hfits)
    exact ⟨_, _, h, rfl, rfl, byteAt_cons_zero _ _, byteAt_cons_succ _ _⟩
  case dec =>
    cases frame with
    | nil => simp at hlen
    | cons hd payload =>
      have h := exec_segDec_of_cons (by rw [hb, frameOf_some]) (tooLong_eq_false.2 hfits)
      exact ⟨_, _, h, rfl, rfl, fun i => (byteAt_cons_succ hd payload i).symm⟩

end Sys2Proof.Machine
end

section
/-! SUPPORT. The command word as the sum of its fields, and decoding and encoding as inverses of each other
(`30_encoding.md` R66 to R69, R73). -/

namespace Sys2Proof.Machine

/-! ## Words as sums of their fields (R66, R70, read through R12) -/

/-- A field of a word as a number. -/
theorem toNat_extractLsb' {n : Nat} (w : BitVec n) (start len : Nat) :
    (w.extractLsb' start len).toNat = w.toNat / 2 ^ start % 2 ^ len := by
  rw [BitVec.extractLsb'_toNat, Nat.shiftRight_eq_div_pow]

/-- The bits below the end of a field are the field at its weight and the bits below its start. -/
theorem mod_two_pow_eq_field_add {n : Nat} (w : BitVec n) {start len top : Nat} (h : start + len = top) :
    w.toNat % 2 ^ top = (w.extractLsb' start len).toNat * 2 ^ start + w.toNat % 2 ^ start := by
  rw [toNat_extractLsb', ← h, pow_add, Nat.mod_mul, add_comm, mul_comm]

/-- The bits up to bit `k` are bit `k` at its weight and the bits below it. -/
theorem mod_two_pow_eq_bit_add {n : Nat} (w : BitVec n) {k top : Nat} (h : k + 1 = top) :
    w.toNat % 2 ^ top = (w.getLsbD k).toNat * 2 ^ k + w.toNat % 2 ^ k := by
  rw [BitVec.getLsbD, Nat.toNat_testBit, ← h, pow_add, pow_one, Nat.mod_mul, add_comm, mul_comm]

/-- A command word is the sum of its seven fields at their weights (R66). -/
theorem command_toNat_eq_fields (w : Word) :
    w.toNat = (cmdOp w).toNat * 2 ^ 28 + (cmdReserved w).toNat * 2 ^ 21 + (cmdNone w).toNat * 2 ^ 20 +
      (cmdCode w).toNat * 2 ^ 18 + (cmdC w).toNat * 2 ^ 12 + (cmdB w).toNat * 2 ^ 6 + (cmdA w).toNat := by
  have hword : w.toNat % 2 ^ 32 = w.toNat := Nat.mod_eq_of_lt (word_lt w)
  have hop : _ = (cmdOp w).toNat * 2 ^ 28 + _ := mod_two_pow_eq_field_add w (top := 32) rfl
  have hreserved : _ = (cmdReserved w).toNat * 2 ^ 21 + _ := mod_two_pow_eq_field_add w (top := 28) rfl
  have hnone : _ = (cmdNone w).toNat * 2 ^ 20 + _ := mod_two_pow_eq_bit_add w (top := 21) rfl
  have hcode : _ = (cmdCode w).toNat * 2 ^ 18 + _ := mod_two_pow_eq_field_add w (top := 20) rfl
  have hc : _ = (cmdC w).toNat * 2 ^ 12 + _ := mod_two_pow_eq_field_add w (top := 18) rfl
  have hb : _ = (cmdB w).toNat * 2 ^ 6 + _ := mod_two_pow_eq_field_add w (top := 12) rfl
  have ha : _ = (cmdA w).toNat * 2 ^ 0 + _ := mod_two_pow_eq_field_add w (top := 6) rfl
  rw [← hword, hop, hreserved, hnone, hcode, hc, hb, ha, pow_zero, Nat.mod_one]
  ring

/-- A response word is the sum of its eight fields at their weights (R70). -/
theorem response_toNat_eq_fields (r : RspWord) :
    r.toNat = (rspOp r).toNat * 2 ^ 28 + (rspStatus r).toNat * 2 ^ 24 + (rspReserved r).toNat * 2 ^ 21 +
      (rspFlag r).toNat * 2 ^ 20 + (rspCode r).toNat * 2 ^ 18 + (rspR2 r).toNat * 2 ^ 12 +
      (rspR1 r).toNat * 2 ^ 6 + (rspR0 r).toNat := by
  have hword : r.toNat % 2 ^ 32 = r.toNat := Nat.mod_eq_of_lt (rspWord_lt r)
  have hop : _ = (rspOp r).toNat * 2 ^ 28 + _ := mod_two_pow_eq_field_add r (top := 32) rfl
  have hstatus : _ = (rspStatus r).toNat * 2 ^ 24 + _ := mod_two_pow_eq_field_add r (top := 28) rfl
  have hreserved : _ = (rspReserved r).toNat * 2 ^ 21 + _ := mod_two_pow_eq_field_add r (top := 24) rfl
  have hflag : _ = (rspFlag r).toNat * 2 ^ 20 + _ := mod_two_pow_eq_bit_add r (top := 21) rfl
  have hcode : _ = (rspCode r).toNat * 2 ^ 18 + _ := mod_two_pow_eq_field_add r (top := 20) rfl
  have hr2 : _ = (rspR2 r).toNat * 2 ^ 12 + _ := mod_two_pow_eq_field_add r (top := 18) rfl
  have hr1 : _ = (rspR1 r).toNat * 2 ^ 6 + _ := mod_two_pow_eq_field_add r (top := 12) rfl
  have hr0 : _ = (rspR0 r).toNat * 2 ^ 0 + _ := mod_two_pow_eq_field_add r (top := 6) rfl
  rw [← hword, hop, hstatus, hreserved, hflag, hcode, hr2, hr1, hr0, pow_zero, Nat.mod_one]
  ring

/-- The encoder's word as a number: its fields are the operands, and its reserved bits are zero. -/
theorem commandWord_toNat (op : OpSelect) (none : Bool) (code : Code) (c b a : SeqNum) :
    (commandWord op none code c b a).toNat = op.toNat * 2 ^ 28 + none.toNat * 2 ^ 20 + code.toNat * 2 ^ 18 +
      c.toNat * 2 ^ 12 + b.toNat * 2 ^ 6 + a.toNat := by
  simpa using command_toNat_eq_fields (commandWord op none code c b a)

/-- The response word as a number: its fields are the operands, and bits 23:21 are zero. -/
theorem responseWord_toNat (op : OpSelect) (st : Status) (flag : Bool) (code : Code) (r2 r1 r0 : Reg) :
    (responseWord op st flag code r2 r1 r0).toNat = op.toNat * 2 ^ 28 + st.code.toNat * 2 ^ 24 +
      flag.toNat * 2 ^ 20 + code.toNat * 2 ^ 18 + r2.toNat * 2 ^ 12 + r1.toNat * 2 ^ 6 + r0.toNat := by
  simpa using response_toNat_eq_fields (responseWord op st flag code r2 r1 r0)

/-- A word whose reserved bits are zero is the encoder's word of its own fields. -/
theorem commandWord_of_fields {w : Word} (h : cmdReserved w = 0) :
    commandWord (cmdOp w) (cmdNone w) (cmdCode w) (cmdC w) (cmdB w) (cmdA w) = w := by
  apply BitVec.eq_of_toNat_eq
  rw [commandWord_toNat, command_toNat_eq_fields w, h]
  simp

/-! ## The rows of R67 -/

/-- Rows that one word satisfies have its `op` in common, and no two rows of the table have the same `op`. -/
theorem row_eq_of_selects {r r' : Row} {w : Word} (hr : r ∈ opcodeTable) (hr' : r' ∈ opcodeTable)
    (h : r.selects w = true) (h' : r'.selects w = true) : r = r' := by
  have rows : ∀ r ∈ opcodeTable, ∀ r' ∈ opcodeTable, r.opcode.select = r'.opcode.select → r = r' := by decide
  exact rows r hr r' hr' ((cmdOp_of_selects hr h).symm.trans (cmdOp_of_selects hr' h'))

/-- A word that satisfies a row decodes to the row's operation, wherever in the table the row stands. -/
theorem decode_of_selects {r : Row} {w : Word} (hr : r ∈ opcodeTable) (h : r.selects w = true) :
    decode w = .ok (r.opcode.withFields w) := by
  obtain ⟨r', hr', h', hd⟩ | ⟨hnone, -⟩ := decode_cases w
  · rw [hd, row_eq_of_selects hr' hr h' h]
  · exact absurd h (by simp [hnone r hr])

/-! ## Decoding an encoded instruction -/

/-- Every instruction's word satisfies the row of its operation (R66, R67). -/
theorem encodesOwnRow (i : Instr) : Laws.EncodesOwnRow.Statement i := by
  cases i with
  | segEnc code seq => exact Laws.EncodesOwnRow.segEnc code seq
  | segDec => exact Laws.EncodesOwnRow.segDec
  | seqInc seq => exact Laws.EncodesOwnRow.seqInc seq
  | seqDec seq n => exact Laws.EncodesOwnRow.seqDec seq n
  | seqIn noLo lo hi x => exact Laws.EncodesOwnRow.seqIn noLo lo hi x
  | winReset => exact Laws.EncodesOwnRow.winReset
  | winTake => exact Laws.EncodesOwnRow.winTake
  | winGive n => exact Laws.EncodesOwnRow.winGive n
  | winAck => exact Laws.EncodesOwnRow.winAck
  | winGap => exact Laws.EncodesOwnRow.winGap
  | winRead => exact Laws.EncodesOwnRow.winRead

/-- The operands are read from the fields the encoder wrote them to. -/
theorem withFields_encode (i : Instr) : i.opcode.withFields (encode i) = i := by
  cases i <;> simp [encode, Instr.opcode, Opcode.withFields]

@[simp] theorem cmdOp_encode (i : Instr) : cmdOp (encode i) = i.opcode.select := by
  cases i <;> exact cmdOp_commandWord _ _ _ _ _ _

theorem decode_encode (i : Instr) : decode (encode i) = .ok i := by
  obtain ⟨r, hr, hopcode, hs⟩ := encodesOwnRow i
  rw [decode_of_selects hr hs, hopcode, withFields_encode]

/-- Settles O15: the encoded word satisfies its own row and no other, and its fields are the operands. -/
theorem decodeOfEncodeIsIdentity : Obligations.DecodeOfEncodeIsIdentity := decode_encode

/-! ## Encoding a decoded word -/

/-- What legality by fields says: the word's `op` is that of an operation, its reserved bits are zero, and so is every
field the operation does not use (R68). -/
theorem legalByFields_iff (w : Word) : legalByFields w = true ↔
    ∃ o : Opcode, cmdOp w = o.select ∧ cmdReserved w = 0 ∧ ∀ f, f ∉ fieldsUsed o → fieldIsZero w f = true := by
  have hopcodes : ∀ o : Opcode, o ∈ opcodes := by intro o; cases o <;> decide
  have hfields : ∀ f : Field, f ∈ operandFields := by intro f; cases f <;> decide
  simp only [legalByFields, List.any_eq_true, List.all_eq_true, Bool.and_eq_true, Bool.or_eq_true, beq_iff_eq,
    List.contains_iff_mem, hopcodes, hfields, true_and, true_implies, and_assoc, or_iff_not_imp_left]

/-- An operation read from a word is encoded with the fields it uses, and zero in the others (the column "fields used"
of R67). -/
theorem encode_withFields (o : Opcode) (w : Word) : encode (o.withFields w) =
    commandWord o.select (if .none ∈ fieldsUsed o then cmdNone w else false)
      (if .code ∈ fieldsUsed o then cmdCode w else 0) (if .c ∈ fieldsUsed o then cmdC w else 0)
      (if .b ∈ fieldsUsed o then cmdB w else 0) (if .a ∈ fieldsUsed o then cmdA w else 0) := by
  cases o <;> rfl

/-- A word that is legal by its fields is the encoding of an instruction. -/
theorem exists_encode_eq_of_legal {w : Word} (h : legalByFields w = true) : ∃ i, encode i = w := by
  obtain ⟨o, hop, hreserved, hunused⟩ := (legalByFields_iff w).1 h
  have hnone := hunused .none
  have hcode := hunused .code
  have hc := hunused .c
  have hb := hunused .b
  have ha := hunused .a
  simp only [fieldIsZero, beq_iff_eq, Bool.not_eq_true'] at hnone hcode hc hb ha
  refine ⟨o.withFields w, ?_⟩
  rw [encode_withFields, ite_eq_left_iff.2 fun hu => (hnone hu).symm, ite_eq_left_iff.2 fun hu => (hcode hu).symm,
    ite_eq_left_iff.2 fun hu => (hc hu).symm, ite_eq_left_iff.2 fun hu => (hb hu).symm,
    ite_eq_left_iff.2 fun hu => (ha hu).symm, ← hop, commandWord_of_fields hreserved]

/-- A word that decodes is legal by its fields. -/
theorem legalByFields_of_decode {w : Word} {i : Instr} (h : decode w = .ok i) : legalByFields w = true := by
  obtain ⟨r, hr, hs, -⟩ | ⟨-, he⟩ := decode_cases w
  · exact legalByFields_of_selects hr hs
  · cases he.symm.trans h

theorem encode_of_decode {w : Word} {i : Instr} (h : decode w = .ok i) : encode i = w := by
  obtain ⟨j, rfl⟩ := exists_encode_eq_of_legal (legalByFields_of_decode h)
  cases (decode_encode j).symm.trans h
  rfl

/-- Settles O16: a word that decodes is the encoding of some instruction, which decoding gives back. -/
theorem encodeOfDecodeIsIdentity : Obligations.EncodeOfDecodeIsIdentity := fun _ _ => encode_of_decode

/-- Settles O17: a row's `op` lies inside its mask and is no other row's. -/
theorem tableRowsAreDisjoint : Obligations.TableRowsAreDisjoint :=
  fun _ _ _ hr hr' h h' => row_eq_of_selects hr hr' (beq_iff_eq.2 h) (beq_iff_eq.2 h')

/-- Settles O18: a word that decodes satisfies a row, and a word legal by its fields is an encoding. SEQ.IN with `none`
tests `x` against `hi` alone. -/
theorem unusedFieldsMustBeZero : Obligations.UnusedFieldsMustBeZero := by
  refine ⟨fun w => ⟨fun ⟨i, hi⟩ => legalByFields_of_decode hi, fun h => ?encodes⟩, fun _ _ _ _ _ => rfl⟩
  case encodes =>
    obtain ⟨i, rfl⟩ := exists_encode_eq_of_legal h
    exact ⟨i, decode_encode i⟩

/-! ## Illegal words -/

/-- A word whose `op` names no operation, or with a reserved bit set, is illegal (R69). -/
theorem legalByFields_eq_false {w : Word} (h : cmdOp w = 0x0#4 ∨ 0xC#4 ≤ cmdOp w ∨ cmdReserved w ≠ 0#7) :
    legalByFields w = false := by
  have hselect : ∀ o : Opcode, o.select ≠ 0x0#4 ∧ ¬ 0xC#4 ≤ o.select := by intro o; cases o <;> decide
  refine Bool.eq_false_iff.2 fun hlegal => ?_
  obtain ⟨o, hop, hreserved, -⟩ := (legalByFields_iff w).1 hlegal
  obtain ⟨hzero, hhigh⟩ := hselect o
  rw [hop] at h
  obtain h | h | h := h
  · exact hzero h
  · exact hhigh h
  · exact h hreserved

/-- The response to an illegal command carries `op` and the status alone (R69). -/
theorem responseWord_illegalCmd (op : OpSelect) :
    responseWord op .illegalCmd false 0 0 0 0 = (op.setWidth 32 <<< 28) ||| (1#32 <<< 24) := by
  simp [responseWord, Status.code]

/-- Settles O19: an illegal word is rejected, with a response of `op` and the status. -/
theorem illegalCommandHasNoEffect : Obligations.IllegalCommandHasNoEffect := by
  refine ⟨fun s w b rest hreq hill => ?_, fun w => legalByFields_eq_false, legalByFields_eq_false (.inl (by decide))⟩
  rw [step_of_illegal hreq hill, rejectCommand_eq_answer, responseWord_illegalCmd]
  rfl

/-! ## Layout and written words -/

/-- Settles O20: a word is the sum of its fields, and the encoder's fields are its operands. -/
theorem commandWordFieldsPartition : Obligations.CommandWordFieldsPartition :=
  ⟨command_toNat_eq_fields, commandWord_toNat⟩

/-- Settles O21: a response word is the sum of its fields, which are the operands. -/
theorem responseWordLayout : Obligations.ResponseWordLayout :=
  ⟨responseWord_toNat, rfl⟩

theorem toOption_decode_of_encode_eq {w : Word} {i : Instr} (h : encode i = w) : (decode w).toOption = some i := by
  subst h
  rw [decode_encode]
  rfl

/-- Settles O22: each word is the encoding of its operation, and SEG.ENC with `none` set is illegal by its fields. -/
theorem writtenWordsDecode : Obligations.WrittenWordsDecode := by
  have hillegal : legalByFields 0x10100000#32 = false := by decide
  refine ⟨toOption_decode_of_encode_eq ?_, toOption_decode_of_encode_eq ?_, toOption_decode_of_encode_eq ?_,
    toOption_decode_of_encode_eq ?_, toOption_decode_of_encode_eq ?_, toOption_decode_of_encode_eq ?_,
    by rw [decode_of_illegal hillegal]; rfl⟩
  all_goals decide

/-! ## The header byte (R60, R62, R63) -/

theorem headerSeq_toNat (h : Byte) : (headerSeq h).toNat = h.toNat % 64 := by
  simp only [headerSeq, toNat_extractLsb', Config.seqBits]
  omega

theorem headerCode_toNat (h : Byte) : (headerCode h).toNat = h.toNat / 64 := by
  have hh := h.isLt
  simp only [headerCode, toNat_extractLsb', Config.codeBits]
  omega

/-- A header byte is determined by its two fields. -/
theorem header_toNat_eq_fields (h : Byte) : h.toNat = (headerSeq h).toNat + 64 * (headerCode h).toNat := by
  rw [headerSeq_toNat, headerCode_toNat]
  omega

@[simp] theorem headerCode_headerByte (code : Code) (seq : SeqNum) : headerCode (headerByte code seq) = code := by
  ext i hi
  simp only [headerCode, headerByte]
  interval_cases i <;> simp

@[simp] theorem headerSeq_headerByte (code : Code) (seq : SeqNum) : headerSeq (headerByte code seq) = seq := by
  ext i hi
  simp only [headerSeq, headerByte]
  interval_cases i <;> simp

theorem headerByte_toNat (code : Code) (seq : SeqNum) :
    (headerByte code seq).toNat = seq.toNat + 64 * code.toNat := by
  simpa using header_toNat_eq_fields (headerByte code seq)

theorem headerByte_of_fields (h : Byte) : headerByte (headerCode h) (headerSeq h) = h :=
  BitVec.eq_of_toNat_eq ((headerByte_toNat _ _).trans (header_toNat_eq_fields h).symm)

/-- Settles O23: the two fields and the byte they make, in both directions. -/
theorem headerByteLayout : Obligations.HeaderByteLayout :=
  ⟨fun code seq => ⟨headerByte_toNat code seq, headerCode_headerByte code seq, headerSeq_headerByte code seq⟩,
    fun h => ⟨headerSeq_toNat h, headerCode_toNat h, headerByte_of_fields h⟩⟩

/-- The header bytes with an operation code of at most `k` are those up to `64 * k + 63`. -/
theorem headerCode_le_iff (h : Byte) (k : Nat) : (headerCode h).toNat ≤ k ↔ h.toNat ≤ 64 * k + 63 := by
  rw [headerCode_toNat]
  omega

theorem serverName_eq : ∀ code : Code, serverName code =
    if code.toNat ≤ 0 then .dataAck else if code.toNat ≤ 1 then .synAck
    else if code.toNat ≤ 2 then .rstOrRstAck else .gap := by decide

theorem clientName_eq : ∀ code : Code, clientName code =
    if code.toNat ≤ 0 then some .data else if code.toNat ≤ 1 then some .syn
    else if code.toNat ≤ 2 then some .rst else none := by decide

/-- Settles O25: the names go by the operation code, and each code is a range of 64 header bytes. -/
theorem wireNamesByHeaderRange : Obligations.WireNamesByHeaderRange := by
  refine ⟨fun h => ?server, fun h => ?client⟩
  case server => simp only [serverName_eq, headerCode_le_iff]
  case client => simp only [clientName_eq, headerCode_le_iff]

end Sys2Proof.Machine
end

section
/-! SUPPORT. The form of every response (`30_encoding.md` R70, R71, `60_exceptions.md` R191) and the step on a command
that decodes (R77). -/

namespace Sys2Proof.Machine

/-! ## The step on a command that decodes -/

/-- A step that takes a command which decodes is the operation on the state with the request taken (R77). -/
theorem step_of_decode {s : State} {w : Word} {b : Option Buffer} {rest : List Request} {i : Instr}
    (hreq : s.requests = .command w b :: rest) (hd : decode w = .ok i) :
    step s = conclude (exec i (s.take rest b)) := by
  simp [step, fetch_of_cons hreq, hd]

/-- Settles O6: `conclude` drops IBUF from a next state and passes a stop on. -/
theorem stepRunsDecodedCommand : Obligations.StepRunsDecodedCommand := by
  intro s w b rest i hreq hd
  have hstep (r : Result) (h : exec i (s.take rest b) = r) : step s = conclude r :=
    h ▸ step_of_decode hreq hd
  exact ⟨fun _ => hstep _, fun _ => hstep _, fun _ => hstep _⟩

/-! ## Every response has the format of R70 -/

/-- The state `t` holds one response more than `s`, in the format of R70 with the operation select `op`. -/
def RespondsOnce (op : OpSelect) (s t : State) : Prop :=
  ∃ st flag code r2 r1 r0 obuf, t.responses = s.responses ++ [⟨responseWord op st flag code r2 r1 r0, obuf⟩]

theorem respondsOnce_answer (op : OpSelect) (st : Status) (flag : Bool) (code : Code) (r2 r1 r0 : Reg) (obuf : Buffer)
    (s : State) : RespondsOnce op s (s.answer (responseWord op st flag code r2 r1 r0) obuf) :=
  ⟨st, flag, code, r2, r1, r0, obuf, rfl⟩

theorem respondsOnce_raise (op : OpSelect) (st : Status) (s : State) : RespondsOnce op s (raise op st s) := by
  cases st <;> exact respondsOnce_answer op _ _ _ _ _ _ _ s

theorem respondsOnce_reportUnit (op : OpSelect) (flag : Bool) (w c k : Reg) (s : State) :
    RespondsOnce op s (reportUnit op flag (s.writeUnit w c k)) :=
  respondsOnce_answer op .ok flag 0 k c w [] s

/-- Every operation answers once, with its own `op` (R70). -/
theorem exists_exec_respondsOnce (i : Instr) (s : State) :
    ∃ t, exec i s = .next t ∧ RespondsOnce i.opcode.select s t := by
  cases i with
  | segEnc code seq =>
    cases h : tooLong s.payloadMax 0 (payloadOf code seq s.ibuf).length with
    | true => exact ⟨_, exec_segEnc_of_tooLong rfl h, respondsOnce_raise _ _ s⟩
    | false => exact ⟨_, exec_segEnc_of_fits rfl h, respondsOnce_answer _ _ _ _ _ _ _ _ s⟩
  | segDec =>
    cases hf : frameOf s.ibuf with
    | nil => exact ⟨_, exec_segDec_of_nil hf, respondsOnce_raise _ _ s⟩
    | cons hd payload =>
      cases h : tooLong s.payloadMax Config.headerBytes (hd :: payload).length with
      | true => exact ⟨_, exec_segDec_of_tooLong hf h, respondsOnce_raise _ _ s⟩
      | false => exact ⟨_, exec_segDec_of_cons hf h, respondsOnce_answer _ _ _ _ _ _ _ _ s⟩
  | seqInc | seqDec | seqIn => exact ⟨_, rfl, respondsOnce_answer _ _ _ _ _ _ _ _ s⟩
  | winReset | winGive | winGap => exact ⟨_, rfl, respondsOnce_reportUnit _ _ _ _ _ s⟩
  | winRead => exact ⟨_, rfl, respondsOnce_reportUnit _ _ s.window s.credits s.streak s⟩
  | winTake =>
    by_cases h : grantFlag s.credits = true
    · exact ⟨_, if_pos h, respondsOnce_reportUnit _ _ _ _ _ s⟩
    · exact ⟨_, if_neg h, respondsOnce_raise _ _ s⟩
  | winAck =>
    by_cases h : streakPasses s.streak s.window = true
    · exact ⟨_, if_pos h, respondsOnce_reportUnit _ _ _ _ _ s⟩
    · exact ⟨_, if_neg h, respondsOnce_reportUnit _ _ _ _ _ s⟩

/-- The `op` of a word that decodes is that of the operation it decodes to. -/
theorem cmdOp_of_decode {w : Word} {i : Instr} (h : decode w = .ok i) : cmdOp w = i.opcode.select := by
  rw [← encode_of_decode h, cmdOp_encode]

/-- Every command, legal or not, is answered once, with the `op` of the command word (R69, R70). -/
theorem exists_step_respondsOnce {s : State} {w : Word} {b : Option Buffer} {rest : List Request}
    (hreq : s.requests = .command w b :: rest) : ∃ t, step s = .next t ∧ RespondsOnce (cmdOp w) s t := by
  cases hd : decode w with
  | ok i =>
    obtain ⟨t, ht, hresponds⟩ := exists_exec_respondsOnce i (s.take rest b)
    exact ⟨t.release, by rw [step_of_decode hreq hd, ht, conclude_next], cmdOp_of_decode hd ▸ hresponds⟩
  | error e =>
    exact ⟨(rejectCommand w (s.take rest b)).release, by simp [step, fetch_of_cons hreq, hd],
      respondsOnce_raise (cmdOp w) .illegalCmd (s.take rest b)⟩

/-- Codes 5 to 15 are reserved (R191). -/
theorem Status.code_toNat_le (st : Status) : st.code.toNat ≤ 4 := by
  cases st <;> decide

/-- Settles O11: the response is a word of R70 with the command's `op`, whose status is one of the five. -/
theorem everyResponseHasTheFormat : Obligations.EveryResponseHasTheFormat := by
  intro s w b rest hreq
  obtain ⟨t, ht, st, flag, code, r2, r1, r0, obuf, hresponses⟩ := exists_step_respondsOnce hreq
  have hstatus := congrArg BitVec.toNat (rspStatus_responseWord (cmdOp w) st flag code r2 r1 r0)
  exact ⟨t, _, ht, hresponses, rspOp_responseWord .., rspReserved_responseWord .., hstatus.trans_le st.code_toNat_le⟩

/-! ## The window unit reports the registers it leaves -/

/-- The response `x` reports the registers of `t` (R71). -/
def Reports (x : Response) (t : State) : Prop :=
  x.obuf = [] ∧ rspCode x.rsp = 0 ∧ rspR2 x.rsp = t.streak ∧ rspR1 x.rsp = t.credits ∧ rspR0 x.rsp = t.window

/-- A response that carries the registers of a state, whatever its status, reports that state. -/
theorem reports_responseWord (op : OpSelect) (st : Status) (flag : Bool) (t : State) :
    Reports ⟨responseWord op st flag 0 t.streak t.credits t.window, []⟩ t :=
  ⟨rfl, rspCode_responseWord .., rspR2_responseWord .., rspR1_responseWord .., rspR0_responseWord ..⟩

/-- An operation that ends in `reportUnit` answers with a report of the registers it leaves. -/
theorem exists_report_of_reportUnit {i : Instr} {s : State} {op : OpSelect} {flag : Bool} {w c k : Reg}
    (h : exec i s = .next (reportUnit op flag (s.writeUnit w c k))) :
    ∃ t x, exec i s = .next t ∧ t.responses = s.responses ++ [x] ∧ Reports x t :=
  ⟨_, _, h, rfl, reports_responseWord op .ok flag (s.writeUnit w c k)⟩

/-- Settles O48: each operation ends in `reportUnit`, or is the refused WIN.TAKE, whose `r1` = 0 is the CREDITS it
leaves. -/
theorem windowUnitReportsWhatItLeaves : Obligations.WindowUnitReportsWhatItLeaves := by
  intro i s hi
  change ∃ t x, exec i s = .next t ∧ t.responses = s.responses ++ [x] ∧ Reports x t
  cases i with
  | segEnc | segDec | seqInc | seqDec | seqIn => cases hi
  | winReset | winGive | winGap => exact exists_report_of_reportUnit rfl
  | winRead => exact exists_report_of_reportUnit (w := s.window) (c := s.credits) (k := s.streak) rfl
  | winTake =>
    by_cases h : grantFlag s.credits = true
    · exact exists_report_of_reportUnit (if_pos h)
    · have hzero : s.credits = 0 := BitVec.eq_of_toNat_eq (by rw [grantFlag_iff] at h; simpa using h)
      have hreport := reports_responseWord Opcode.winTake.select .noCredit false s
      rw [hzero] at hreport
      exact ⟨_, _, if_neg h, rfl, hreport⟩
  | winAck =>
    by_cases h : streakPasses s.streak s.window = true
    · exact exists_report_of_reportUnit (if_pos h)
    · exact exists_report_of_reportUnit (if_neg h)

end Sys2Proof.Machine
end

section
/-! SUPPORT. The command words that select an operation (`30_encoding.md` R67, R69, R77) and the codec unit
(`40_segment_codec.md` R90, R93, R96). -/

namespace Sys2Proof.Machine

/-! ## The words of one `op` -/

/-- No two rows of the table have the same `op` (R67). -/
theorem row_eq_of_select_eq : ∀ r ∈ opcodeTable, ∀ r' ∈ opcodeTable, r.opcode.select = r'.opcode.select → r = r' := by
  decide

/-- A word with the `op` of a row is legal only if it satisfies that row. -/
theorem legalByFields_eq_false_of_not_selects {r : Row} {w : Word} (hr : r ∈ opcodeTable)
    (hop : cmdOp w = r.opcode.select) (h : ¬ r.selects w = true) : legalByFields w = false := by
  refine Bool.eq_false_iff.2 fun hlegal => h ?_
  obtain ⟨i, rfl⟩ := exists_encode_eq_of_legal hlegal
  obtain ⟨r', hr', -, hs'⟩ := encodesOwnRow i
  rwa [row_eq_of_select_eq r hr r' hr' (hop.symm.trans (cmdOp_of_selects hr' hs'))]

/-- Each row of the table says what every command word of its `op` does (R67, R69, R77). -/
theorem commandSelects_of_mem {r : Row} (hr : r ∈ opcodeTable) :
    CommandSelects r.opcode.select r.pattern r.mask r.opcode.withFields := by
  refine fun s w b rest hreq hop => ⟨fun hw => ?performed, fun hw => ?rejected⟩
  case performed => exact step_of_decode hreq (decode_of_selects hr (beq_iff_eq.2 hw))
  case rejected =>
    have hillegal := legalByFields_eq_false_of_not_selects hr hop (mt beq_iff_eq.1 hw)
    obtain ⟨hreject, -⟩ := illegalCommandHasNoEffect
    rw [hreject s w b rest hreq hillegal, hop]

/-! ## The header byte, from numbers and to numbers -/

theorem headerByte_eq_ofNat (code : Code) (seq : SeqNum) :
    headerByte code seq = BitVec.ofNat 8 (seq.toNat + 64 * code.toNat) := by
  rw [← headerByte_toNat, BitVec.ofNat_toNat, BitVec.setWidth_eq]

theorem headerCode_eq_ofNat (h : Byte) : headerCode h = BitVec.ofNat 2 (h.toNat / 64) := by
  rw [← headerCode_toNat, BitVec.ofNat_toNat, BitVec.setWidth_eq]

theorem headerSeq_eq_ofNat (h : Byte) : headerSeq h = BitVec.ofNat 6 (h.toNat % 64) := by
  rw [← headerSeq_toNat, BitVec.ofNat_toNat, BitVec.setWidth_eq]

/-! ## SEG.ENC and SEG.DEC -/

/-- Settles O26: row 0x1 of the table, and the two outcomes of SEG.ENC with the header byte as a number. -/
theorem segEncPrependsHeader : Obligations.SegEncPrependsHeader := by
  refine ⟨commandSelects_of_mem (r := ⟨.segEnc, 0x10000000, 0xFFF3FFC0⟩) (by decide),
    fun code seq s payload hb hfits => ?fits, fun code seq s payload m hb hm hlong => ?tooLong⟩
  case fits =>
    rw [exec_segEnc_of_fits (by rw [hb, payloadOf_some]) (tooLong_eq_false.2 hfits), headerByte_eq_ofNat]
    rfl
  case tooLong =>
    rw [exec_segEnc_of_tooLong (by rw [hb, payloadOf_some]) (tooLong_eq_true.2 ⟨m, hm, hlong⟩)]
    rfl

/-- Settles O27: row 0x2 of the table, and the three outcomes of SEG.DEC with the header fields as numbers. -/
theorem segDecSplitsHeader : Obligations.SegDecSplitsHeader := by
  refine ⟨commandSelects_of_mem (r := ⟨.segDec, 0x20000000, 0xFFFFFFFF⟩) (by decide),
    fun s h payload hb hfits => ?splits, fun s hb => ?empty, fun s frame m hb hm hlong => ?tooLong⟩
  case splits =>
    rw [exec_segDec_of_cons (by rw [hb, frameOf_some]) (tooLong_eq_false.2 hfits), headerCode_eq_ofNat,
      headerSeq_eq_ofNat]
    rfl
  case empty =>
    rw [exec_segDec_of_nil (by rw [hb, frameOf_some])]
    rfl
  case tooLong =>
    rw [exec_segDec_of_tooLong (by rw [hb, frameOf_some]) (tooLong_eq_true.2 ⟨m, hm, hlong⟩)]
    rfl

/-- Settles O30: each operation leaves PAYLOAD_MAX as it was, so the buffer it returns is within the other's bound, and
the header byte and its two fields determine each other. -/
theorem codecRoundTrip : Obligations.CodecRoundTrip := by
  refine ⟨fun s code seq payload hb hfits => ?decodesEncoded, fun s b hb hlen hfits => ?encodesDecoded⟩
  case decodesEncoded =>
    have henc := exec_segEnc_of_fits (code := code) (seq := seq) (by rw [hb, payloadOf_some])
      (tooLong_eq_false.2 hfits)
    have hframe : ∀ m, s.payloadMax = some m → (headerByte code seq :: payload).length ≤ m + Config.headerBytes :=
      fun m hm => Nat.succ_le_succ (hfits m hm)
    refine ⟨_, _, _, _, henc, rfl, exec_segDec_of_cons (frameOf_some _) (tooLong_eq_false.2 hframe), rfl, ?_⟩
    simp [Status.code]
  case encodesDecoded =>
    cases b with
    | nil => simp at hlen
    | cons hd payload =>
      have hdec := exec_segDec_of_cons (by rw [hb, frameOf_some]) (tooLong_eq_false.2 hfits)
      have hpayload : ∀ m, s.payloadMax = some m → payload.length ≤ m + 0 :=
        fun m hm => Nat.le_of_succ_le_succ (hfits m hm)
      refine ⟨_, _, _, _, hdec, rfl, exec_segEnc_of_fits (payloadOf_some _ _ _) (tooLong_eq_false.2 hpayload), rfl, ?_⟩
      simp [headerByte_of_fields]

end Sys2Proof.Machine
end

section
/-! SUPPORT. The sequence unit (`41_sequence_space.md` R110 to R118): the arithmetic of SEQ.INC and SEQ.DEC on the circle
of 64 numbers, and membership in the open interval as a comparison of forward distances. -/

namespace Sys2Proof.Machine

/-! ## The range of a sequence number (R117) -/

theorem inSequenceRange_iff (n : Nat) : inSequenceRange n = true ↔ n ≤ 63 := by
  simp [inSequenceRange]

theorem seqNum_le (n : SeqNum) : n.toNat ≤ 63 := Nat.le_of_lt_succ (seqNum_lt n)

@[simp] theorem inSequenceRange_toNat (n : SeqNum) : inSequenceRange n.toNat = true :=
  (inSequenceRange_iff _).2 (seqNum_le n)

/-- Every operand is a field of six bits, so an instruction has nothing out of range (R76, R117). -/
theorem wellFormed_eq_true (i : Instr) : i.wellFormed = true := by
  cases i with
  | segEnc | seqInc | winGive => exact inSequenceRange_toNat _
  | seqDec | seqIn => simp [Instr.wellFormed]
  | segDec | winReset | winTake | winAck | winGap | winRead => rfl

/-- Settles O24: six bits hold no number above SEQUENCE_NUMBER_MAX. -/
theorem sequenceNumbersAreInRange : Obligations.SequenceNumbersAreInRange :=
  ⟨fun _ => ⟨inSequenceRange_toNat _, seqNum_le _⟩, fun _ => ⟨seqNum_le _, seqNum_le _, seqNum_le _⟩,
    wellFormed_eq_true, inSequenceRange_iff⟩

/-! ## SEQ.INC and SEQ.DEC on the circle (R110 to R113) -/

/-- Decrement over the integers, where nothing has to be added to keep the difference positive (R113 (d)). -/
theorem decrement_toNat_int (s n : SeqNum) : ((decrement s n).toNat : Int) = ((s.toNat : Int) - n.toNat) % 64 := by
  have := seqNum_lt n
  rw [decrement_toNat]
  omega

theorem decrement_increment (s : SeqNum) : decrement (increment s) 1 = s := by
  rw [decrement_eq_sub, increment_eq_add, add_sub_cancel_right]

theorem increment_decrement (s : SeqNum) : increment (decrement s 1) = s := by
  rw [increment_eq_add, decrement_eq_sub, sub_add_cancel]

/-- Adding the numbers of two steps modulo 64 is adding them as sequence numbers. -/
theorem ofNat_add_mod (m n : SeqNum) : BitVec.ofNat 6 ((m.toNat + n.toNat) % 64) = m + n :=
  BitVec.eq_of_toNat_eq (by rw [seqNum_toNat_add, BitVec.toNat_ofNat]; omega)

theorem decrement_decrement (s m n : SeqNum) : decrement (decrement s m) n = decrement s (m + n) := by
  simp only [decrement_eq_sub, sub_sub]

/-! ## Repeated SEQ.INC -/

/-- `j` increments as a number (R113 (e)). -/
theorem iterate_increment_toNat (s : SeqNum) (j : Nat) : (increment^[j] s).toNat = (s.toNat + j) % 64 := by
  induction j with
  | zero => exact (Nat.mod_eq_of_lt (seqNum_lt s)).symm
  | succ j ih => rw [Function.iterate_succ_apply', increment_toNat, ih]; omega

/-- The forward distance to the number `j` increments on is `j`, as long as the walk has not gone round (R113 (g)). -/
theorem decrement_iterate_increment_toNat (s : SeqNum) {j : Nat} (hj : j < 64) :
    (decrement (increment^[j] s) s).toNat = j := by
  have := seqNum_lt s
  rw [decrement_toNat, iterate_increment_toNat]
  omega

theorem decrement_iterate_increment (s : SeqNum) (j : Nat) :
    decrement (increment^[j] s) (BitVec.ofNat 6 (j % 64)) = s := by
  apply BitVec.eq_of_toNat_eq
  have := seqNum_lt s
  rw [decrement_toNat, iterate_increment_toNat, seqNum_toNat_ofNat]
  omega

/-- The first 64 iterates are distinct: each has its own distance from the start (R113 (f)). -/
theorem iterate_increment_eq_iff (s : SeqNum) {j k : Nat} (hj : j < 64) (hk : k < 64) :
    increment^[j] s = increment^[k] s ↔ j = k := by
  refine ⟨fun h => ?_, congrArg (increment^[·] s)⟩
  rw [← decrement_iterate_increment_toNat s hj, h, decrement_iterate_increment_toNat s hk]

theorem iterate_increment_sixty_four (s : SeqNum) : increment^[64] s = s :=
  BitVec.eq_of_toNat_eq (by rw [iterate_increment_toNat, Nat.add_mod_right, Nat.mod_eq_of_lt (seqNum_lt s)])

/-- The walk of SEQ.DEC `x, lo` increments from `lo` ends at `x` (R113 (g)). -/
theorem iterate_increment_decrement (lo x : SeqNum) : increment^[(decrement x lo).toNat] lo = x := by
  apply BitVec.eq_of_toNat_eq
  have := seqNum_lt lo
  have := seqNum_lt x
  rw [iterate_increment_toNat, decrement_toNat]
  omega

/-- The walk from `lo` does not meet `x` before its end (R113 (g)). -/
theorem iterate_increment_ne_of_lt_decrement {lo x : SeqNum} {j : Nat} (hj : j < (decrement x lo).toNat) :
    increment^[j] lo ≠ x := by
  have hd := seqNum_lt (decrement x lo)
  intro h
  rw [← iterate_increment_decrement lo x, iterate_increment_eq_iff lo (hj.trans hd) hd] at h
  exact hj.ne h

/-- Settles O37, law by law in the order of R113. -/
theorem sequenceLaws : Obligations.SequenceLaws := by
  refine ⟨fun _ _ => ⟨seqNum_le _, seqNum_le _⟩, fun s => ⟨decrement_increment s, increment_decrement s⟩,
    fun s m n => ?additive,
    fun s n => ⟨?byZero, ?byItself, decrement_toNat s n, decrement_toNat_int s n⟩,
    fun s j => ⟨iterate_increment_toNat s j, decrement_iterate_increment s j⟩,
    fun s _ _ => iterate_increment_eq_iff s, iterate_increment_sixty_four,
    fun lo x => ⟨iterate_increment_decrement lo x, fun _ => iterate_increment_ne_of_lt_decrement⟩⟩
  case additive => rw [ofNat_add_mod, decrement_decrement]
  case byZero => rw [decrement_eq_sub, sub_zero]
  case byItself => rw [decrement_eq_sub, sub_self]

/-! ## SEQ.INC and SEQ.DEC as operations -/

/-- Settles O34: row 0x3 of the table, and the answer of SEQ.INC. -/
theorem seqIncAddsOneModulo : Obligations.SeqIncAddsOneModulo :=
  ⟨commandSelects_of_mem (r := ⟨.seqInc, 0x30000000, 0xFFFFFFC0⟩) (by decide),
    fun seq _ => ⟨increment seq, increment_toNat seq, rfl⟩⟩

/-- Settles O35: row 0x4 of the table, and the answer of SEQ.DEC; the 64 that R111 adds vanishes modulo 64. -/
theorem seqDecSubtractsModulo : Obligations.SeqDecSubtractsModulo :=
  ⟨commandSelects_of_mem (r := ⟨.seqDec, 0x40000000, 0xFFFFF000⟩) (by decide),
    fun seq n _ => ⟨decrement seq n, by rw [decrement_toNat_int, Int.add_emod_right], rfl⟩⟩

/-! ## Membership (R114 to R116) -/

/-- With a lower end, membership compares the two forward distances that SEQ.DEC gives (R113 (g), R114). -/
theorem memberFlag_iff_decrement (lo hi x : SeqNum) : memberFlag false lo hi x = true ↔
    0 < (decrement x lo).toNat ∧ (decrement x lo).toNat < (decrement hi lo).toNat := by
  simp only [memberFlag_of_lo, decrement_eq_sub]

/-- The distances of R114 over the integers. -/
theorem memberFlag_iff_int (lo hi x : SeqNum) : memberFlag false lo hi x = true ↔
    0 < ((x.toNat : Int) - lo.toNat) % 64 ∧
      ((x.toNat : Int) - lo.toNat) % 64 < ((hi.toNat : Int) - lo.toNat) % 64 := by
  simp only [memberFlag_iff_decrement, ← decrement_toNat_int, Nat.cast_pos, Nat.cast_lt]

/-- SEQ.IN adds one response whose flag is the membership, and changes nothing else (R114, R115). -/
theorem exec_seqIn_of_iff {noLo : Bool} {lo hi x : SeqNum} {p : Prop} [Decidable p]
    (h : memberFlag noLo lo hi x = true ↔ p) (s : State) :
    exec (.seqIn noLo lo hi x) s = .next (s.answer (responseWord 0x5#4 .ok (decide p) 0 0 0 0) []) := by
  rw [← (Bool.eq_iff_iff.2 (h.trans decide_eq_true_iff.symm) : memberFlag noLo lo hi x = decide p)]
  rfl

/-- Settles O36: row 0x5 of the table, and the answer of SEQ.IN with and without a lower end. -/
theorem seqInTestsOpenInterval : Obligations.SeqInTestsOpenInterval :=
  ⟨commandSelects_of_mem (r := ⟨.seqIn, 0x50000000, 0xFFEC0000⟩) (by decide),
    fun lo hi x s => exec_seqIn_of_iff (memberFlag_iff_int lo hi x) s,
    fun lo hi x s => exec_seqIn_of_iff (memberFlag_of_none lo hi x) s⟩

/-- A distance to `hi` of at most one leaves no number strictly between (R116). -/
theorem memberFlag_eq_false_of_decrement_le_one {lo hi : SeqNum} (h : (decrement hi lo).toNat ≤ 1) (x : SeqNum) :
    memberFlag false lo hi x = false := by
  rw [Bool.eq_false_iff, ne_eq, memberFlag_iff_decrement]
  omega

theorem memberFlag_of_hi_eq_lo (lo x : SeqNum) : memberFlag false lo lo x = false :=
  memberFlag_eq_false_of_decrement_le_one (by simp [decrement_eq_sub]) x

/-- Settles O39: the two distances are 0 and 1. -/
theorem equalEndsHoldNoMember : Obligations.EqualEndsHoldNoMember :=
  fun lo x => ⟨memberFlag_of_hi_eq_lo lo x,
    memberFlag_eq_false_of_decrement_le_one (decrement_iterate_increment_toNat lo (j := 1) (by decide)).le x⟩

/-- Going forward from 63, the numbers come in their own order, one step later (R115). -/
theorem decrement_sixty_three_toNat (x : SeqNum) : (decrement x 63#6).toNat = (x.toNat + 1) % 64 := by
  rw [decrement_toNat]
  rfl

/-- 63 stands for -1 as lower end unless it is also the upper end (R115). -/
theorem memberFlag_none_eq_of_ne {hi : SeqNum} (hhi : hi ≠ 63#6) (lo x : SeqNum) :
    memberFlag true lo hi x = memberFlag false 63#6 hi x := by
  have hne : hi.toNat ≠ 63 := fun h => hhi (BitVec.eq_of_toNat_eq h)
  have := seqNum_lt hi
  have := seqNum_lt x
  rw [Bool.eq_iff_iff, memberFlag_of_none, memberFlag_iff_decrement, decrement_sixty_three_toNat,
    decrement_sixty_three_toNat]
  omega

/-- Settles O38: without reduction -1 shifts both sides by one, and with it only `hi` = 63 differs. -/
theorem noneActsAsMinusOne : Obligations.NoneActsAsMinusOne := by
  refine ⟨fun lo hi x => ?unreduced, fun lo _ x hhi => memberFlag_none_eq_of_ne hhi lo x,
    fun lo x => ⟨?upTo62, memberFlag_of_hi_eq_lo 63#6 x⟩⟩
  case unreduced =>
    rw [memberFlag_of_none]
    omega
  case upTo62 => exact (memberFlag_of_none lo 63#6 x).trans Nat.lt_succ_iff

/-! ## Counting (R118) -/

/-- The members lie at the distances strictly between 0 and that of `hi`, read in `Fin 64`. -/
theorem memberFlag_iff_mem_Ioo (lo hi x : SeqNum) :
    memberFlag false lo hi x = true ↔ x.toFin - lo.toFin ∈ Finset.Ioo 0 (decrement hi lo).toFin := by
  rw [memberFlag_of_lo, decrement_eq_sub, Finset.mem_Ioo, ← BitVec.toFin_sub]
  rfl

/-- Moving the circle on by `lo` takes the distances to the members, so there are as many of each. -/
theorem card_members_of_lo (lo hi : SeqNum) :
    ((Finset.univ : Finset (Fin 64)).filter fun x => memberFlag false lo hi (BitVec.ofFin x) = true).card =
      (decrement hi lo).toNat - 1 := by
  calc _ = ((Finset.Ioo 0 (decrement hi lo).toFin).map (Equiv.addRight lo.toFin).toEmbedding).card := by
        congr 1
        ext x
        rw [Finset.mem_filter_univ, memberFlag_iff_mem_Ioo, Finset.mem_map_equiv, Equiv.addRight_symm,
          Equiv.coe_addRight, sub_eq_add_neg]
    _ = (decrement hi lo).toNat - 1 := by
        rw [Finset.card_map, Fin.card_Ioo]
        rfl

theorem card_members_of_none (lo hi : SeqNum) :
    ((Finset.univ : Finset (Fin 64)).filter fun x => memberFlag true lo hi (BitVec.ofFin x) = true).card =
      hi.toNat := by
  calc _ = (Finset.Iio hi.toFin).card := by
        congr 1
        ext x
        rw [Finset.mem_filter_univ, memberFlag_of_none, Finset.mem_Iio]
        rfl
    _ = hi.toNat := Fin.card_Iio _

/-- The numbers on the walk from `lo` are members from the first step up to the one before `hi`. -/
theorem memberFlag_iterate_increment (lo hi : SeqNum) {j : Nat} (hj : j < 64) :
    memberFlag false lo hi (increment^[j] lo) = true ↔ 0 < j ∧ j < (decrement hi lo).toNat := by
  rw [memberFlag_iff_decrement, decrement_iterate_increment_toNat lo hj]

/-- Settles O40: the members are counted by their distances from `lo`, and the walk to a member stays nearer than `hi`. -/
theorem membersAreCounted : Obligations.MembersAreCounted := by
  refine ⟨card_members_of_lo, card_members_of_none,
    fun lo hi x hx => ⟨fun j hpos hj => ?onTheWalk, iterate_increment_decrement lo x⟩⟩
  case onTheWalk =>
    obtain ⟨-, hlt⟩ := (memberFlag_iff_decrement lo hi x).1 hx
    exact (memberFlag_iterate_increment lo hi (hj.trans_lt (seqNum_lt _))).2 ⟨hpos, hj.trans_lt hlt⟩

end Sys2Proof.Machine
end

section
/-! SUPPORT. The window unit (`42_window.md` R131 to R141): what each operation answers, the registers it leaves, and
the registers that the same operation leaves when performed several times. -/

namespace Sys2Proof.Machine

/-! ## The operations, one by one (R131 to R136)

The model computes CREDITS and STREAK as numbers; within their bounds these are subtraction and addition of words. -/

/-- Counting one down does not wrap where there is something to count. -/
theorem reg_ofNat_pred {c : Reg} (h : 0 < c.toNat) : BitVec.ofNat Config.regBits (c.toNat - 1) = c - 1 := by
  have hone : (1 : Reg) ≤ c := h
  have hlt := reg_lt c
  refine BitVec.eq_of_toNat_eq ?_
  rw [reg_toNat_ofNat, BitVec.toNat_sub_of_le hone]
  exact Nat.mod_eq_of_lt (by omega)

theorem reg_ofNat_succ (k : Reg) : BitVec.ofNat Config.regBits (k.toNat + 1) = k + 1 :=
  BitVec.eq_of_toNat_eq rfl

/-- Settles O41: row 0x6 of the table, and the values of WIN.RESET, which reads no register. -/
theorem winResetRestoresDefaults : Obligations.WinResetRestoresDefaults := by
  refine ⟨commandSelects_of_mem (r := ⟨.winReset, 0x60000000, 0xFFFFFFFF⟩) (by decide), fun s => ?_⟩
  have hword : responseWord Opcode.winReset.select .ok false 0 0#6 15#6 15#6 = 0x600003CF#32 := by decide
  rw [← hword]
  rfl

/-- Settles O42: row 0x7 of the table, and the two outcomes of WIN.TAKE. -/
theorem winTakeConsumesOneCredit : Obligations.WinTakeConsumesOneCredit := by
  refine ⟨commandSelects_of_mem (r := ⟨.winTake, 0x70000000, 0xFFFFFFFF⟩) (by decide),
    fun s _ hpos => ?granted, fun s _ hzero => ?refused⟩
  case granted =>
    rw [← reg_ofNat_pred hpos]
    exact if_pos ((grantFlag_iff s.credits).2 hpos)
  case refused => exact if_neg (mt (grantFlag_iff s.credits).1 (by omega))

/-- Settles O43: row 0x8 of the table, and the CREDITS that WIN.GIVE leaves, as a number. -/
theorem winGiveCapsAtWindow : Obligations.WinGiveCapsAtWindow :=
  ⟨commandSelects_of_mem (r := ⟨.winGive, 0x80000000, 0xFFFFFFC0⟩) (by decide),
    fun n s _ => ⟨creditsGiven s.credits s.window n, creditsGiven_toNat .., rfl⟩⟩

/-- Settles O45: row 0x9 of the table, and WIN.ACK on either side of the threshold. -/
theorem winAckCountsTowardGrowth : Obligations.WinAckCountsTowardGrowth := by
  refine ⟨commandSelects_of_mem (r := ⟨.winAck, 0x90000000, 0xFFFFFFFF⟩) (by decide),
    fun s _ hpasses => ⟨windowGrown s.window, windowGrown_toNat s.window, ?grows⟩, fun s _ hcounts => ?counts⟩
  case grows => exact if_pos ((streakPasses_iff s.streak s.window).2 hpasses)
  case counts =>
    rw [← reg_ofNat_succ]
    exact if_neg (mt (streakPasses_iff s.streak s.window).1 (by omega))

/-- The unclamped value of R135 is in 1 to 16, so the clamp never binds. -/
theorem windowShrunk_bounds {window : Reg} (h : window.toNat ≤ 32) :
    1 ≤ (windowShrunk window).toNat ∧ (windowShrunk window).toNat ≤ 16 := by
  rw [windowShrunk_toNat]
  omega

/-- Settles O46: row 0xA of the table, and the window that WIN.GAP leaves, as a number. -/
theorem winGapHalvesWindow : Obligations.WinGapHalvesWindow := by
  refine ⟨commandSelects_of_mem (r := ⟨.winGap, 0xA0000000, 0xFFFFFFFF⟩) (by decide), fun s hs => ?_⟩
  obtain ⟨⟨-, hmax⟩, -⟩ := hs
  obtain ⟨hpos, hle⟩ := windowShrunk_bounds hmax
  exact ⟨windowShrunk s.window, windowShrunk_toNat s.window, hpos, hle, rfl⟩

/-- Settles O47: row 0xB of the table, and the report of WIN.READ. -/
theorem winReadReportsRegisters : Obligations.WinReadReportsRegisters :=
  ⟨commandSelects_of_mem (r := ⟨.winRead, 0xB0000000, 0xFFFFFFFF⟩) (by decide), fun _ _ => rfl⟩

/-! ## The registers they leave, as numbers (R137, R140) -/

section
variable {s t : State}

/-- The difference is truncated: a WIN.TAKE that is refused leaves 0 (R132). -/
theorem credits_of_winTake (h : exec .winTake s = .next t) : t.credits.toNat = s.credits.toNat - 1 := by
  obtain ⟨-, hc, -⟩ := registers_of_exec h
  have hlt := reg_lt s.credits
  rw [hc, creditsAfter, reg_toNat_ofNat]
  omega

theorem registers_of_winGive {n : SeqNum} (h : exec (.winGive n) s = .next t) :
    t.window = s.window ∧ t.credits.toNat = min (s.credits.toNat + n.toNat) s.window.toNat ∧ t.streak = s.streak := by
  obtain ⟨hw, hc, hk⟩ := registers_of_exec h
  exact ⟨hw, hc ▸ creditsGiven_toNat .., hk⟩

/-- WIN.ACK past the threshold (R134). -/
theorem registers_of_winAck_of_passes (h : exec .winAck s = .next t) (hp : s.window.toNat < s.streak.toNat + 1) :
    t.window.toNat = min (s.window.toNat + 1) 32 ∧ t.credits = s.credits ∧ t.streak = 0#6 := by
  obtain ⟨hw, hc, hk⟩ := registers_of_exec h
  have hpasses := (streakPasses_iff s.streak s.window).2 hp
  rw [windowAfter, if_pos hpasses] at hw
  rw [streakAfter, if_pos hpasses] at hk
  exact ⟨hw ▸ windowGrown_toNat s.window, hc, hk⟩

/-- WIN.ACK within the threshold (R134). -/
theorem registers_of_winAck_of_counts (h : exec .winAck s = .next t) (hle : s.streak.toNat + 1 ≤ s.window.toNat) :
    t.window = s.window ∧ t.credits = s.credits ∧ t.streak.toNat = s.streak.toNat + 1 := by
  obtain ⟨hw, hc, hk⟩ := registers_of_exec h
  have hwithin : ¬ streakPasses s.streak s.window = true := mt (streakPasses_iff ..).1 (by omega)
  have hlt := reg_lt s.window
  rw [windowAfter, if_neg hwithin] at hw
  rw [streakAfter, if_neg hwithin] at hk
  exact ⟨hw, hc, by rw [hk, reg_toNat_ofNat]; omega⟩

theorem window_of_winGap (h : exec .winGap s = .next t) : t.window.toNat = (s.window.toNat - 1) / 2 + 1 := by
  obtain ⟨hw, -, -⟩ := registers_of_exec h
  exact hw ▸ windowShrunk_toNat s.window

end

/-- Settles O4: every operation answers and keeps `Inv`, and the registers it leaves are those of its law. -/
theorem operationsKeepInvariant : Obligations.OperationsKeepInvariant := by
  intro i s hs
  obtain ⟨t, ht, hw, hc, hk⟩ := exists_exec_registers i s
  have hinv := exec_keeps_inv hs ht
  obtain ⟨⟨-, hmax⟩, -, -⟩ := hs
  refine ⟨t, ht, hinv, ?_⟩
  cases i with
  | segEnc | segDec | seqInc | seqDec | seqIn | winRead => exact ⟨hw, hc, hk⟩
  | winReset => exact ⟨congrArg BitVec.toNat hw, congrArg BitVec.toNat hc, congrArg BitVec.toNat hk⟩
  | winTake =>
    have htaken := credits_of_winTake ht
    exact ⟨hw, hk, fun hpos => by omega, fun hzero => BitVec.eq_of_toNat_eq (by omega)⟩
  | winGive n =>
    obtain ⟨-, hcredits, -⟩ := hinv
    exact ⟨hw, hk, hcredits⟩
  | winAck =>
    refine ⟨hc, ?_⟩
    by_cases hp : s.window.toNat < s.streak.toNat + 1
    · obtain ⟨hgrown, -, hcleared⟩ := registers_of_winAck_of_passes ht hp
      exact .inl ⟨congrArg BitVec.toNat hcleared, by omega, by omega, by omega⟩
    · obtain ⟨hsame, -, hcounted⟩ := registers_of_winAck_of_counts ht (by omega)
      exact .inr ⟨hsame, by omega, by omega⟩
  | winGap =>
    obtain ⟨hpos, hle⟩ := windowShrunk_bounds hmax
    exact ⟨hw ▸ hpos, hw ▸ hle, hc.trans hw.symm, congrArg BitVec.toNat hk⟩

/-- Settles O49: WIN.ACK within the threshold counts up, and the operations not named do not write STREAK. -/
theorem onlyThreeOperationsClearStreak : Obligations.OnlyThreeOperationsClearStreak := by
  intro i s _
  obtain ⟨t, ht, -, -, hk⟩ := exists_exec_registers i s
  refine ⟨t, ht, ?_⟩
  cases i with
  | winReset | winGap => exact ⟨fun _ => hk, fun hnot => absurd hnot (by simp)⟩
  | winAck =>
    by_cases hp : s.window.toNat < s.streak.toNat + 1
    · obtain ⟨-, -, hcleared⟩ := registers_of_winAck_of_passes ht hp
      exact ⟨fun _ => hcleared, fun hnot => absurd hnot (by simp [hp])⟩
    · obtain ⟨-, -, hcounted⟩ := registers_of_winAck_of_counts ht (by omega)
      exact ⟨fun hclears => absurd hclears (by simp [hp]), fun _ => by omega⟩
  | segEnc | segDec | seqInc | seqDec | seqIn | winTake | winGive | winRead =>
    exact ⟨fun hclears => absurd hclears (by simp), fun _ => (congrArg BitVec.toNat hk).ge⟩

/-! ## Operations in a row -/

theorem performAll_append {is : List Instr} {s t : State} (h : performAll is s = .next t) (js : List Instr) :
    performAll (is ++ js) s = performAll js t := by
  induction is generalizing s with
  | nil => cases h; rfl
  | cons i is ih =>
    obtain ⟨u, hu, -⟩ := exists_exec_registers i s
    simp only [List.cons_append, performAll, hu] at h ⊢
    exact ih h

/-- The same operation `n` times: a property of the state and of how often the operation has been performed holds
after `n` times if it holds at the start and each time carries it on. -/
theorem exists_performAll_replicate {i : Instr} {s : State} {P : Nat → State → Prop} (n : Nat) (zero : P 0 s)
    (succ : ∀ j < n, ∀ t u, P j t → exec i t = .next u → P (j + 1) u) :
    ∃ t, performAll (List.replicate n i) s = .next t ∧ P n t := by
  induction n with
  | zero => exact ⟨s, rfl, zero⟩
  | succ n ih =>
    obtain ⟨t, ht, hP⟩ := ih fun j hj => succ j (by omega)
    obtain ⟨u, hu, -⟩ := exists_exec_registers i t
    refine ⟨u, ?_, succ n (by omega) t u hP hu⟩
    rw [List.replicate_succ', performAll_append ht]
    simp only [performAll, hu]

/-- `j` times WIN.GIVE 1 adds `j` credits, capped at WINDOW. -/
theorem exists_performAll_winGive1 {s : State} (hs : s.credits.toNat ≤ s.window.toNat) (n : Nat) :
    ∃ t, performAll (List.replicate n winGive1) s = .next t ∧ t.window = s.window ∧
      t.credits.toNat = min (s.credits.toNat + n) s.window.toNat ∧ t.streak = s.streak := by
  refine exists_performAll_replicate (P := fun j t => t.window = s.window ∧
    t.credits.toNat = min (s.credits.toNat + j) s.window.toNat ∧ t.streak = s.streak) n ⟨rfl, by omega, rfl⟩ ?_
  rintro j - t u ⟨hw, hc, hk⟩ hu
  obtain ⟨hw', hc', hk'⟩ := registers_of_winGive hu
  have hone : (1 : SeqNum).toNat = 1 := rfl
  refine ⟨hw'.trans hw, ?_, hk'.trans hk⟩
  rw [hc', hc, hw, hone]
  omega

/-- Settles O44: both leave CREDITS at `min (CREDITS + n) WINDOW`, and WINDOW and STREAK as they were. -/
theorem givingAtOnceIsGivingOneByOne : Obligations.GivingAtOnceIsGivingOneByOne := by
  intro n s hs
  obtain ⟨-, hcredits, -⟩ := hs
  obtain ⟨t, ht, -⟩ := exists_exec_registers (.winGive n) s
  obtain ⟨hw, hc, hk⟩ := registers_of_winGive ht
  obtain ⟨u, hu, hw', hc', hk'⟩ := exists_performAll_winGive1 hcredits n.toNat
  exact ⟨t, u, ht, hu, BitVec.eq_of_toNat_eq (hc.trans hc'.symm), hw.trans hw'.symm, hk.trans hk'.symm⟩

/-! ## Growth and shrinking (R141) -/

/-- Up to WINDOW acknowledgements from streak 0 stay within the threshold, and only count. -/
theorem exists_performAll_winAck_counts {s : State} (hk : s.streak = 0#6) {n : Nat} (hn : n ≤ s.window.toNat) :
    ∃ t, performAll (List.replicate n .winAck) s = .next t ∧
      t.window = s.window ∧ t.streak.toNat = n ∧ t.credits = s.credits := by
  refine exists_performAll_replicate (P := fun j t => t.window = s.window ∧ t.streak.toNat = j ∧
    t.credits = s.credits) n ⟨rfl, congrArg BitVec.toNat hk, rfl⟩ ?_
  rintro j hj t u ⟨hw, hcount, hc⟩ hu
  obtain ⟨hw', hc', hcount'⟩ := registers_of_winAck_of_counts hu (by rw [hw]; omega)
  exact ⟨hw'.trans hw, by omega, hc'.trans hc⟩

/-- One more acknowledgement passes the threshold, and the window grows by one. -/
theorem exists_performAll_winAck_grows {s : State} (hk : s.streak = 0#6) (hw : s.window.toNat < 32) :
    ∃ t, performAll (List.replicate (s.window.toNat + 1) .winAck) s = .next t ∧
      t.window.toNat = s.window.toNat + 1 ∧ t.streak = 0#6 ∧ t.credits = s.credits := by
  obtain ⟨t, ht, hsame, hcount, hc⟩ := exists_performAll_winAck_counts hk le_rfl
  obtain ⟨u, hu, -⟩ := exists_exec_registers .winAck t
  obtain ⟨hgrown, hc', hcleared⟩ := registers_of_winAck_of_passes hu (by rw [hsame]; omega)
  refine ⟨u, ?_, by rw [hgrown, hsame]; omega, hcleared, hc'.trans hc⟩
  rw [List.replicate_succ', performAll_append ht]
  simp only [performAll, hu]

/-- From window 1 and streak 0, `2 + 3 + … + (n + 1)` acknowledgements grow the window `n` times, up to the cap. -/
theorem exists_performAll_winAck_grows_from_one {s : State} (hw : s.window = 1#6) (hk : s.streak = 0#6) {n : Nat}
    (hn : n ≤ 31) : ∃ t, performAll (List.replicate (∑ j ∈ Finset.range n, (j + 2)) .winAck) s = .next t ∧
      t.window.toNat = n + 1 ∧ t.streak = 0#6 := by
  induction n with
  | zero => exact ⟨s, rfl, congrArg BitVec.toNat hw, hk⟩
  | succ n ih =>
    obtain ⟨t, ht, htw, htk⟩ := ih (by omega)
    obtain ⟨u, hu, huw, huk, -⟩ := exists_performAll_winAck_grows htk (by omega)
    refine ⟨u, ?_, by omega, huk⟩
    rw [htw] at hu
    rw [Finset.sum_range_succ, List.replicate_add, performAll_append ht]
    exact hu

/-- `n` times WIN.GAP divides `WINDOW - 1` by `2 ^ n`, rounding down. -/
theorem exists_performAll_winGap {s : State} (hs : 1 ≤ s.window.toNat) (n : Nat) :
    ∃ t, performAll (List.replicate n .winGap) s = .next t ∧ t.window.toNat = (s.window.toNat - 1) / 2 ^ n + 1 := by
  refine exists_performAll_replicate (P := fun j t => t.window.toNat = (s.window.toNat - 1) / 2 ^ j + 1) n
    (by rw [pow_zero, Nat.div_one]; omega) fun j _ t u ht hu => ?_
  rw [window_of_winGap hu, ht, Nat.add_sub_cancel, Nat.div_div_eq_div_mul, pow_succ]

/-- Settles O50: `w + 1` acknowledgements a growth step, whose sum from window 1 to 32 is 527, and the halving of
`WINDOW - 1` by each WIN.GAP. -/
theorem growthIsAdditiveShrinkIsHalving : Obligations.GrowthIsAdditiveShrinkIsHalving := by
  refine ⟨fun s _ hw hk => ⟨fun j hj => exists_performAll_winAck_counts hk hj, exists_performAll_winAck_grows hk hw⟩,
    fun s _ hw hk => ?fromOneToCap, fun s _ hw k w hkw => ?halves⟩
  case fromOneToCap =>
    obtain ⟨t, ht, htw, htk⟩ := exists_performAll_winAck_grows_from_one hw hk (n := 31) le_rfl
    have hsum : ∑ j ∈ Finset.range 31, (j + 2) = 527 := by decide
    rw [hsum] at ht
    exact ⟨t, ht, BitVec.eq_of_toNat_eq htw, htk⟩
  case halves =>
    have hw32 : s.window.toNat = 32 := congrArg BitVec.toNat hw
    have table : ∀ k < 7, [32, 16, 8, 4, 2, 1, 1][k]? = some (31 / 2 ^ k + 1) := by decide
    obtain ⟨hk, -⟩ := List.getElem?_eq_some_iff.1 hkw
    obtain ⟨t, ht, htw⟩ := exists_performAll_winGap (s := s) (by omega) k
    rw [table k hk, Option.some_inj] at hkw
    exact ⟨t, ht, by rw [htw, hw32]; exact hkw⟩

end Sys2Proof.Machine
end

section
/-! SUPPORT. The status of a command and what a status other than OK leaves (`60_exceptions.md` R191, R192, R195, R196),
and the run over a sequence of commands (R193, R194). -/

namespace Sys2Proof.Machine

/-! ## The port over a run -/

/-- Settles O7: an empty port has nothing to fetch. -/
theorem idleWithoutRequest : Obligations.IdleWithoutRequest := by
  intro s hreq
  simp only [step, fetch_of_nil hreq]

theorem run_succ_of_step {s t : State} (h : step s = .next t) (k : Nat) :
    Host.Core.run core (k + 1) s = Host.Core.run core k t := by
  have hcore : core.step s = .next t := h
  simp only [Host.Core.run, hcore]

/-- A step that takes a command adds one response, leaves the later requests waiting and keeps `Inv` (R48, R193). -/
theorem exists_step_of_command {s : State} {w : Word} {b : Option Buffer} {rest : List Request}
    (hreq : s.requests = .command w b :: rest) :
    ∃ t x, step s = .next t ∧ t.requests = rest ∧ t.responses = s.responses ++ [x] ∧ (s.Inv → t.Inv) := by
  obtain ⟨t, ht, hrest, x, hx⟩ := requestsTakenInOrder s _ rest hreq
  exact ⟨t, x, ht, hrest, hx, fun hs => stepKeepsInvariant s t hs ht⟩

/-- Settles O10, by induction on the commands: one step takes one of them and leaves the others waiting. -/
theorem everyCommandIsAnswered : Obligations.EveryCommandIsAnswered := by
  intro s commands
  induction commands generalizing s with
  | nil => exact fun hreq => ⟨s, [], rfl, hreq, (List.append_nil _).symm, rfl, id⟩
  | cons c commands ih =>
    intro hreq
    obtain ⟨t, x, ht, hrest, hx, hinv⟩ := exists_step_of_command hreq
    obtain ⟨u, new, hu, hempty, hnew, hlen, hinv'⟩ := ih t hrest
    refine ⟨u, x :: new, (run_succ_of_step ht _).trans hu, hempty, ?_, congrArg (· + 1) hlen, hinv' ∘ hinv⟩
    rw [hnew, hx, List.append_assoc, List.singleton_append]

/-! ## How an operation ends -/

/-- The state `t` holds one response more than `s`, of status `st`; unless that is OK, the response has an empty OBUF
and the registers are those of `s` (R192). -/
def EndsWith (st : Status) (s t : State) : Prop :=
  ∃ x, t.responses = s.responses ++ [x] ∧ rspStatus x.rsp = st.code ∧
    (st ≠ .ok → x.obuf = [] ∧ t.window = s.window ∧ t.credits = s.credits ∧ t.streak = s.streak)

theorem endsWith_raise (op : OpSelect) (st : Status) (s : State) : EndsWith st s (raise op st s) := by
  obtain ⟨rsp, hraise, -, hstatus, -⟩ := raise_spec op st s
  rw [hraise]
  exact ⟨⟨rsp, []⟩, rfl, hstatus, fun _ => ⟨rfl, rfl, rfl, rfl⟩⟩

theorem endsWith_ok_answer (op : OpSelect) (flag : Bool) (code : Code) (r2 r1 r0 : Reg) (obuf : Buffer) (s : State) :
    EndsWith .ok s (s.answer (responseWord op .ok flag code r2 r1 r0) obuf) :=
  ⟨_, rfl, rspStatus_responseWord .., fun hne => absurd rfl hne⟩

theorem endsWith_ok_reportUnit (op : OpSelect) (flag : Bool) (w c k : Reg) (s : State) :
    EndsWith .ok s (reportUnit op flag (s.writeUnit w c k)) :=
  ⟨_, rfl, rspStatus_responseWord .., fun hne => absurd rfl hne⟩

/-- The status an operation ends with: LENGTH before NO_SEGMENT for SEG.DEC, and three operations alone can fail
(R191, R195). -/
def statusOf (i : Instr) (s : State) : Status :=
  match i with
  | .segEnc code seq => if tooLong s.payloadMax 0 (payloadOf code seq s.ibuf).length then .length else .ok
  | .segDec =>
    if tooLong s.payloadMax Config.headerBytes (frameOf s.ibuf).length then .length
    else if frameOf s.ibuf = [] then .noSegment else .ok
  | .winTake => if grantFlag s.credits then .ok else .noCredit
  | .seqInc _ | .seqDec _ _ | .seqIn _ _ _ _ | .winReset | .winGive _ | .winAck | .winGap | .winRead => .ok

/-- Every operation ends with its status (R192, R195). -/
theorem exists_exec_endsWith (i : Instr) (s : State) : ∃ t, exec i s = .next t ∧ EndsWith (statusOf i s) s t := by
  cases i with
  | segEnc code seq =>
    simp only [statusOf]
    cases h : tooLong s.payloadMax 0 (payloadOf code seq s.ibuf).length with
    | true => exact ⟨_, exec_segEnc_of_tooLong rfl h, endsWith_raise _ .length s⟩
    | false => exact ⟨_, exec_segEnc_of_fits rfl h, endsWith_ok_answer ..⟩
  | segDec =>
    simp only [statusOf]
    cases h : tooLong s.payloadMax Config.headerBytes (frameOf s.ibuf).length with
    | true => exact ⟨_, exec_segDec_of_tooLong rfl h, endsWith_raise _ .length s⟩
    | false =>
      cases hf : frameOf s.ibuf with
      | nil => exact ⟨_, exec_segDec_of_nil hf, endsWith_raise _ .noSegment s⟩
      | cons hd payload => exact ⟨_, exec_segDec_of_cons hf (hf ▸ h), endsWith_ok_answer ..⟩
  | seqInc | seqDec | seqIn => exact ⟨_, rfl, endsWith_ok_answer ..⟩
  | winReset | winGive | winGap => exact ⟨_, rfl, endsWith_ok_reportUnit ..⟩
  | winRead => exact ⟨_, rfl, endsWith_ok_reportUnit _ _ s.window s.credits s.streak s⟩
  | winTake =>
    simp only [statusOf]
    by_cases h : grantFlag s.credits = true
    · rw [if_pos h]
      exact ⟨_, if_pos h, endsWith_ok_reportUnit ..⟩
    · rw [if_neg h]
      exact ⟨_, if_neg h, endsWith_raise _ .noCredit s⟩
  | winAck =>
    by_cases h : streakPasses s.streak s.window = true
    · exact ⟨_, if_pos h, endsWith_ok_reportUnit ..⟩
    · exact ⟨_, if_neg h, endsWith_ok_reportUnit ..⟩

/-! ## How a command ends -/

/-- The status a command word ends with, on the state with its request taken: ILLEGAL_CMD for a word that does not
decode, before every check of the operation (R195). -/
def commandStatus (w : Word) (s : State) : Status :=
  match decode w with
  | .ok i => statusOf i s
  | .error _ => .illegalCmd

theorem commandStatus_of_decode {w : Word} {i : Instr} (h : decode w = .ok i) (s : State) :
    commandStatus w s = statusOf i s := by
  simp only [commandStatus, h]

theorem commandStatus_of_illegal {w : Word} (h : legalByFields w = false) (s : State) :
    commandStatus w s = .illegalCmd := by
  simp only [commandStatus, decode_of_illegal h]

/-- Every command, legal or not, ends with its status (R69, R192). -/
theorem exists_step_endsWith {s : State} {w : Word} {b : Option Buffer} {rest : List Request}
    (hreq : s.requests = .command w b :: rest) :
    ∃ t, step s = .next t ∧ EndsWith (commandStatus w (s.take rest b)) s t := by
  cases hlegal : legalByFields w with
  | true =>
    obtain ⟨i, rfl⟩ := exists_encode_eq_of_legal hlegal
    obtain ⟨t, ht, hends⟩ := exists_exec_endsWith i (s.take rest b)
    rw [commandStatus_of_decode (decode_encode i)]
    exact ⟨t.release, by rw [step_of_decode hreq (decode_encode i), ht, conclude_next], hends⟩
  | false =>
    rw [commandStatus_of_illegal hlegal]
    exact ⟨_, step_of_illegal hreq hlegal, endsWith_raise (cmdOp w) .illegalCmd (s.take rest b)⟩

/-- Settles O13: a status with a non-zero code is not OK. -/
theorem failingCommandHasNoEffect : Obligations.FailingCommandHasNoEffect := by
  intro s w b rest hreq
  obtain ⟨t, ht, x, hx, hstatus, hfails⟩ := exists_step_endsWith hreq
  refine ⟨t, x, ht, hx, fun hcode => hfails fun hok => hcode ?_⟩
  rw [hok] at hstatus
  exact hstatus

/-! ## The order of checks (R195) -/

theorem overLength_segEnc (max : Option Nat) (len : Nat) :
    overLength max Opcode.segEnc.select len = tooLong max 0 len := by
  cases max <;> simp [overLength, tooLong, Opcode.select]

theorem overLength_segDec (max : Option Nat) (len : Nat) :
    overLength max Opcode.segDec.select len = tooLong max Config.headerBytes len := by
  cases max <;> simp [overLength, tooLong, Opcode.select]

/-- The length check is the codec unit's alone (R53). -/
theorem overLength_outside_codec {o : Opcode} (henc : o ≠ .segEnc) (hdec : o ≠ .segDec) (max : Option Nat)
    (len : Nat) : overLength max o.select len = false := by
  have hselect : o.select ≠ 0x1#4 ∧ o.select ≠ 0x2#4 := by
    cases o with
    | segEnc => exact absurd rfl henc
    | segDec => exact absurd rfl hdec
    | seqInc | seqDec | seqIn | winReset | winTake | winGive | winAck | winGap | winRead => decide
  cases max <;> simp [overLength, hselect]

theorem takesBuffer_iff (w : Word) : takesBuffer w = true ↔ cmdOp w = 0x1#4 ∨ cmdOp w = 0x2#4 := by
  simp [takesBuffer]

/-- The number of an operation's status, by the checks of R195 in their order; `b` is the buffer of a codec
operation. -/
theorem statusOf_code_toNat (i : Instr) (s : State) (b : Buffer)
    (hb : i.opcode.select = 0x1#4 ∨ i.opcode.select = 0x2#4 → s.ibuf = some b) :
    (statusOf i s).code.toNat =
      if overLength s.payloadMax i.opcode.select b.length = true then 4
      else if i.opcode.select = 0x2#4 ∧ b = [] then 2
      else if i.opcode.select = 0x7#4 ∧ s.credits.toNat = 0 then 3
      else 0 := by
  cases i with
  | segEnc code seq =>
    have hp : payloadOf code seq s.ibuf = b := by rw [hb (.inl rfl), payloadOf_some]
    simp only [Instr.opcode, overLength_segEnc, statusOf, hp]
    split <;> rfl
  | segDec =>
    have hf : frameOf s.ibuf = b := by rw [hb (.inr rfl), frameOf_some]
    simp only [Instr.opcode, overLength_segDec, statusOf, hf]
    split
    · rfl
    · by_cases hnil : b = [] <;> simp [hnil, Opcode.select, Status.code]
  | winTake =>
    rw [overLength_outside_codec (by nofun) (by nofun)]
    by_cases h : s.credits.toNat = 0
    · have hrefused : ¬ grantFlag s.credits = true := by rw [grantFlag_iff]; omega
      simp [statusOf, hrefused, h, Instr.opcode, Opcode.select, Status.code]
    · have hgranted : grantFlag s.credits = true := by rw [grantFlag_iff]; omega
      simp [statusOf, hgranted, h, Instr.opcode, Opcode.select, Status.code]
  | seqInc | seqDec | seqIn | winReset | winGive | winAck | winGap | winRead =>
    rw [overLength_outside_codec (by nofun) (by nofun)]
    rfl

/-- Settles O12: an illegal word fails the first check, and a legal one ends with the status of its operation. -/
theorem firstFailingCheckDecidesStatus : Obligations.FirstFailingCheckDecidesStatus := by
  intro s w ibuf b rest hreq hb
  obtain ⟨t, ht, x, hx, hstatus, -⟩ := exists_step_endsWith hreq
  refine ⟨t, x, ht, hx, (congrArg BitVec.toNat hstatus).trans ?_⟩
  cases hlegal : legalByFields w with
  | false =>
    rw [commandStatus_of_illegal hlegal]
    rfl
  | true =>
    obtain ⟨i, rfl⟩ := exists_encode_eq_of_legal hlegal
    have hop := cmdOp_encode i
    have hbuffer (h : i.opcode.select = 0x1#4 ∨ i.opcode.select = 0x2#4) : ibuf = some b :=
      hb hlegal ((takesBuffer_iff _).2 (hop.symm ▸ h))
    rw [commandStatus_of_decode (decode_encode i), hop]
    exact statusOf_code_toNat i (s.take rest ibuf) b hbuffer

end Sys2Proof.Machine
end

section
/-! SUPPORT. Reset (`70_reset_and_hazards.md` R210, R211), and what the outcome of an operation depends on
(`40_segment_codec.md` R98, `70_reset_and_hazards.md` R218). -/

namespace Sys2Proof.Machine

/-! ## Reset -/

/-- Settles O1: the fields of `State.reset`, evaluated. -/
theorem resetLeavesDefaultRegisters : Obligations.ResetLeavesDefaultRegisters :=
  ⟨rfl, rfl, rfl, rfl⟩

/-- A step that takes a hardware reset writes the reset values and drops IBUF (R210, R211). -/
theorem step_of_hardwareReset {s : State} {rest : List Request} (hreq : s.requests = .hardwareReset :: rest) :
    step s = .next (s.take rest none).resetUnit := by
  simp only [step, fetch_of_cons hreq]

/-- Settles O8: hardware reset and WIN.RESET write the registers by the same update, `resetUnit`. -/
theorem hardwareResetActsAsWinReset : Obligations.HardwareResetActsAsWinReset :=
  fun _ _ hreq => ⟨_, _, step_of_hardwareReset hreq, rfl, rfl, rfl, rfl, rfl⟩

/-! ## The two sides of the command port -/

/-- The state with other waiting requests and other earlier responses. -/
def State.withPort (s : State) (requests : List Request) (responses : List Response) : State :=
  { s with requests := requests, responses := responses }

/-- States that agree in the registers, IBUF and PAYLOAD_MAX differ at the command port alone. -/
theorem withPort_eq_of_inputs_eq {s s' : State} (hw : s.window = s'.window) (hc : s.credits = s'.credits)
    (hk : s.streak = s'.streak) (hb : s.ibuf = s'.ibuf) (hm : s.payloadMax = s'.payloadMax) :
    s.withPort s'.requests s'.responses = s' := by
  simp only [State.withPort, hw, hc, hk, hb, hm]

/-- The operation, performed with any requests waiting and any responses already returned, writes its registers and
answers `rsp` and `obuf`. -/
def AnswersAtAnyPort (i : Instr) (s : State) (rsp : RspWord) (obuf : Buffer) : Prop :=
  ∀ requests responses,
    exec i (s.withPort requests responses) = .next (((s.afterInstr i).withPort requests responses).answer rsp obuf)

/-- An operation that ends in a report of the registers it leaves answers them alone (R71). -/
theorem exists_answersAtAnyPort_of_report {i : Instr} {s : State} (op : OpSelect) (flag : Bool)
    (h : ∀ requests responses,
      exec i (s.withPort requests responses) =
        .next (reportUnit op flag ((s.afterInstr i).withPort requests responses))) :
    ∃ rsp obuf, AnswersAtAnyPort i s rsp obuf :=
  ⟨responseWord op .ok flag 0 (s.afterInstr i).streak (s.afterInstr i).credits (s.afterInstr i).window, [], h⟩

/-- No operation reads the waiting requests or the earlier responses (R98, R218). -/
theorem exists_answersAtAnyPort (i : Instr) (s : State) : ∃ rsp obuf, AnswersAtAnyPort i s rsp obuf := by
  have outside (hi : isWindowOp i = false) : ∃ rsp obuf, AnswersAtAnyPort i s rsp obuf := by
    obtain ⟨rsp, obuf, h⟩ := exec_of_not_isWindowOp hi s.ibuf s.payloadMax
    refine ⟨rsp, obuf, fun requests responses => ?_⟩
    rw [afterInstr_of_not_isWindowOp hi, h (s.withPort requests responses) rfl rfl]
  cases i with
  | segEnc | segDec | seqInc | seqDec | seqIn => exact outside rfl
  | winReset | winGive | winGap | winRead => exact exists_answersAtAnyPort_of_report _ _ fun _ _ => rfl
  | winTake =>
    by_cases h : grantFlag s.credits = true
    · exact exists_answersAtAnyPort_of_report _ _ fun _ _ => if_pos h
    · have h0 : s.credits.toNat = 0 := by rw [grantFlag_iff] at h; omega
      refine ⟨responseWord Opcode.winTake.select .noCredit false 0 s.streak 0 s.window, [], fun _ _ => ?_⟩
      rw [afterInstr_winTake_of_credits_eq_zero h0]
      exact if_neg h
  | winAck =>
    by_cases h : streakPasses s.streak s.window = true
    · refine exists_answersAtAnyPort_of_report Opcode.winAck.select (grewFlag s.window (windowGrown s.window))
        fun _ _ => ?_
      rw [afterInstr_winAck_of_passes h]
      exact if_pos h
    · refine exists_answersAtAnyPort_of_report Opcode.winAck.select false fun _ _ => ?_
      rw [afterInstr_winAck_of_not_passes h]
      exact if_neg h

/-- Settles O14: each of the two states is the first one with its own port. -/
theorem outcomeDependsOnInputsAlone : Obligations.OutcomeDependsOnInputsAlone := by
  intro i s s' hw hc hk hb hm
  obtain ⟨rsp, obuf, h⟩ := exists_answersAtAnyPort i s
  have hs := h s.requests s.responses
  have hs' := h s'.requests s'.responses
  rw [withPort_eq_of_inputs_eq rfl rfl rfl rfl rfl] at hs
  rw [withPort_eq_of_inputs_eq hw hc hk hb hm] at hs'
  exact ⟨_, _, ⟨rsp, obuf⟩, hs, hs', rfl, rfl, rfl, rfl, rfl⟩

end Sys2Proof.Machine
end
